-- ==== Sys2Proof/Word.lean ====
section
/-! DEFINITION. The widths of the block's values (spec 00_scope.md R8, R9) and the plainest arithmetic on them. -/

namespace Sys2Proof

/-- A register value: the chip's cells are "byte-wide" (R8, R31). -/
abbrev Byte := BitVec 8

/-- A RegisterAddress, a 4-bit value (R50). -/
abbrev RegisterAddress := BitVec 4

/-- A command word, 37 bits (R70, D2). -/
abbrev CmdWord := BitVec 37

/-- `trunc_8`, the document's "as byte": `v mod 256` (R9, R106). -/
def trunc8 (v : Nat) : Byte := BitVec.ofNat 8 v

@[simp] theorem trunc8_toNat (v : Nat) : (trunc8 v).toNat = v % 256 := by
  simp [trunc8]

end Sys2Proof
end

