-- ==== Sys2Proof/Syntax.lean ====
section
/-! DEFINITION. The commands of AYW: one constructor of `Instr` per row of spec/opcode_table.json (30_encoding.md R70
to R75, R81), and the closed enumerations their operands use. -/

namespace Sys2Proof

/-- The document's Channel, "enumeration {A, B, C}" (R72). -/
inductive Channel where
  | A
  | B
  | C
deriving DecidableEq, Repr

/-- The document's AmplitudeMode (R73, D5). -/
inductive AmpMode where
  | fixed
  | variable
deriving DecidableEq, Repr

/-- The document's EnvelopeShapeType, five variants (R79). -/
inductive ShapeType where
  | oneShotSaw
  | rampDown
  | rampUp
  | repeatedSaw
  | repeatedTriangle
deriving DecidableEq, Repr

/-- A command. `freq` is an unsigned integer of 32 bits in Hz (R73), exact in every formula (R105), so it is a `Nat`
with its bound in `Instr.wf`; `fe` is a binary32 bit pattern; `level` and `flags` are bytes that are masked. -/
inductive Instr where
  /-- TONE A, freq (R101). -/
  | toneA (freq : Nat)
  /-- TONE B, freq (R101). -/
  | toneB (freq : Nat)
  /-- TONE C, freq (R101). -/
  | toneC (freq : Nat)
  /-- NOISE freq (R102). -/
  | noise (freq : Nat)
  /-- ENVP fe (R103). -/
  | envp (fe : BitVec 32)
  /-- ENVS OneShotSaw (R120). -/
  | envsOneShotSaw
  /-- ENVS RampDown (R120). -/
  | envsRampDown
  /-- ENVS RampUp (R120). -/
  | envsRampUp
  /-- ENVS RepeatedSaw (R120). -/
  | envsRepeatedSaw
  /-- ENVS RepeatedTriangle (R120). -/
  | envsRepeatedTriangle
  /-- AMP A, mode, level (R121). -/
  | ampA (mode : AmpMode) (level : Byte)
  /-- AMP B, mode, level (R121). -/
  | ampB (mode : AmpMode) (level : Byte)
  /-- AMP C, mode, level (R121). -/
  | ampC (mode : AmpMode) (level : Byte)
  /-- MIX flags (R122). -/
  | mix (flags : Byte)
deriving DecidableEq, Repr

/-- `TONE ch, freq` in the spec's operand order (R81): the row of its channel. -/
def Instr.tone : Channel → Nat → Instr
  | .A, f => .toneA f
  | .B, f => .toneB f
  | .C, f => .toneC f

/-- `AMP ch, mode, level` in the spec's operand order (R81): the row of its channel. -/
def Instr.amp : Channel → AmpMode → Byte → Instr
  | .A, m, l => .ampA m l
  | .B, m, l => .ampB m l
  | .C, m, l => .ampC m l

/-- `ENVS shape` (R81): the row of its shape. -/
def Instr.envs : ShapeType → Instr
  | .oneShotSaw => .envsOneShotSaw
  | .rampDown => .envsRampDown
  | .rampUp => .envsRampUp
  | .repeatedSaw => .envsRepeatedSaw
  | .repeatedTriangle => .envsRepeatedTriangle

end Sys2Proof
end

