-- ==== Sys2Proof/Config.lean ====
section
/-! DEFINITION. What is fixed for the machine and what the spec leaves open: the parameter table of 00_scope.md R8 as
a record that a state carries unchanged, and the free values as opaque constants. -/

namespace Sys2Proof

/-- The 14 register names of 10_state.md R31. -/
inductive RegName where
  | toneFine (ch : Channel)
  | toneCoarse (ch : Channel)
  | noisePeriod
  | mixer
  | amp (ch : Channel)
  | envCoarse
  | envFine
  | envShape
deriving DecidableEq, Repr

/-- All 14 names, in the order of R76's default table. -/
def RegName.all : List RegName :=
  [.toneFine .A, .toneCoarse .A, .toneFine .B, .toneCoarse .B, .toneFine .C, .toneCoarse .C, .noisePeriod,
   .mixer, .amp .A, .amp .B, .amp .C, .envFine, .envCoarse, .envShape]

/-- The parameter `RegAddr`: the 4-bit address of each named register (R76, D15). -/
structure RegAddr where
  toneFineA : RegisterAddress
  toneCoarseA : RegisterAddress
  toneFineB : RegisterAddress
  toneCoarseB : RegisterAddress
  toneFineC : RegisterAddress
  toneCoarseC : RegisterAddress
  noisePeriod : RegisterAddress
  mixer : RegisterAddress
  ampA : RegisterAddress
  ampB : RegisterAddress
  ampC : RegisterAddress
  envFine : RegisterAddress
  envCoarse : RegisterAddress
  envShape : RegisterAddress
deriving DecidableEq, Repr

/-- The address of a named register. -/
def RegAddr.get (t : RegAddr) : RegName → RegisterAddress
  | .toneFine .A => t.toneFineA
  | .toneFine .B => t.toneFineB
  | .toneFine .C => t.toneFineC
  | .toneCoarse .A => t.toneCoarseA
  | .toneCoarse .B => t.toneCoarseB
  | .toneCoarse .C => t.toneCoarseC
  | .noisePeriod => t.noisePeriod
  | .mixer => t.mixer
  | .amp .A => t.ampA
  | .amp .B => t.ampB
  | .amp .C => t.ampC
  | .envCoarse => t.envCoarse
  | .envFine => t.envFine
  | .envShape => t.envShape

/-- The number of registers the chip has: addresses 0x0 to 0xD (R50, R76). -/
abbrev chipCells : Nat := 14

/-- `RegAddr` is a bijection from the 14 names onto 0..13 (R76): 14 different addresses, each below 14. -/
abbrev RegAddr.wf (t : RegAddr) : Prop :=
  (RegName.all.map t.get).Nodup ∧ ∀ a ∈ RegName.all.map t.get, a.toNat < chipCells

/-- The default table of R76. PRESUMED by the spec itself, unsafe (log 3): the AY-3-8910 numbering. -/
def RegAddr.default : RegAddr where
  toneFineA := 0x0
  toneCoarseA := 0x1
  toneFineB := 0x2
  toneCoarseB := 0x3
  toneFineC := 0x4
  toneCoarseC := 0x5
  noisePeriod := 0x6
  mixer := 0x7
  ampA := 0x8
  ampB := 0x9
  ampC := 0xA
  envFine := 0xB
  envCoarse := 0xC
  envShape := 0xD

/-- The parameter `ENV_ARITH`: how `EnvDiv` is evaluated (R104, D7). -/
inductive EnvArith where
  | exact
  | ieee32
  | ieee64
deriving DecidableEq, Repr

/-- The parameters of R8 that a model takes as an argument. They are not state of AYW (R29): `State` carries them
because `exec` and `step` have no other argument, and no step changes them (log 3). -/
structure Cfg where
  /-- `CLOCK_HZ`, 32 bits, in Hz (R7, D6). -/
  clockHz : BitVec 32
  /-- `RegAddr` (R76). -/
  regAddr : RegAddr
  /-- `ENV_ARITH` (R104). -/
  envArith : EnvArith
deriving DecidableEq, Repr

/-- The premises on the configuration: `0 < CLOCK_HZ < 2^32` (R7, R191) and `RegAddr` a bijection (R76). -/
abbrev Cfg.wf (c : Cfg) : Prop := 0 < c.clockHz.toNat ∧ c.regAddr.wf

/-- The configuration `State.reset` carries. DESIGN CHOICE, unsafe (log 3): `CLOCK_HZ` is OPEN (D23), 2,000,000 is the
value of the document's examples; `RegAddr` and `ENV_ARITH` are the spec's defaults. -/
def Cfg.default : Cfg where
  clockHz := 2000000
  regAddr := RegAddr.default
  envArith := .exact

/-- `ENV_ZERO_DIV`, OPEN (R107, D8): the 16-bit divider ENVP emits at frequency zero. A free value: nothing
constrains it (log 4). -/
opaque Config.envZeroDiv : BitVec 16

/-- The byte a cell of the chip holds until a transaction writes it: unspecified after reset (R36), "any value until
written" (U9). A free value for each cell (log 7). -/
opaque Config.powerOnCell : Nat → Byte

/-- The byte on the chip's bus while `le` is Low: "any value" (R33, U8), and the byte a reset leaves in the register
of a transaction it abandons (U15). A free value for each moment (log 6, log 13). -/
opaque Config.freeByte : Nat → Byte

end Sys2Proof
end

