-- ==== Sys2Proof/WellFormed.lean ====
section
/-! DEFINITION. What makes a command well formed: its frequency operand fits the 32-bit field (R8 `FREQ_W`, R73). Every
other operand is bounded by its type. -/

namespace Sys2Proof

/-- A frequency operand of TONE or NOISE: an unsigned 32-bit integer (R73). Zero is admitted: it decodes (R75). -/
abbrev freqOk (freq : Nat) : Prop := freq < 2 ^ 32

/-- The command can be written as a command word (R73, R75). -/
def Instr.wfBool : Instr → Bool
  | .toneA f => decide (freqOk f)
  | .toneB f => decide (freqOk f)
  | .toneC f => decide (freqOk f)
  | .noise f => decide (freqOk f)
  | .envp _ => true
  | .envsOneShotSaw => true
  | .envsRampDown => true
  | .envsRampUp => true
  | .envsRepeatedSaw => true
  | .envsRepeatedTriangle => true
  | .ampA _ _ => true
  | .ampB _ _ => true
  | .ampC _ _ => true
  | .mix _ => true

/-- Well-formedness as a proposition that `decide` can run on. -/
abbrev Instr.wf (i : Instr) : Prop := i.wfBool = true

end Sys2Proof
end

