-- ==== Sys2Proof/Decode.lean ====
section
/-! DEFINITION. The decoder of command words, total on all 2^37 words (30_encoding.md R70 to R75), the encoder, the
opcode table's rows as masks and patterns, and the written form (R81). -/

namespace Sys2Proof

/-- Why a command word is reserved (R74). -/
inductive Reserved where
  /-- `op` is 6 or 7. -/
  | op
  /-- `ch` is 3 in TONE or AMP, or not 0 in a command without a channel. -/
  | channel
  /-- `shape` is 5, 6 or 7. -/
  | shape
  /-- A must-be-zero bit of `arg` is 1. -/
  | mustBeZero
deriving DecidableEq, Repr

/-- `cw[36:34]`, the command kind (R70). -/
def opField (cw : CmdWord) : BitVec 3 := cw.extractLsb' 34 3

/-- `cw[33:32]`, the channel (R70). -/
def chField (cw : CmdWord) : BitVec 2 := cw.extractLsb' 32 2

/-- `cw[31:0]`, the operand (R70). -/
def argField (cw : CmdWord) : BitVec 32 := cw.extractLsb' 0 32

/-- The channel code (R72, D3). -/
def decodeChannel (c : BitVec 2) : Except Reserved Channel :=
  match c.toNat with
  | 0 => .ok .A
  | 1 => .ok .B
  | 2 => .ok .C
  | _ => .error .channel

/-- The channel field of a command that takes no channel must be 0 (R72). -/
def noChannel (c : BitVec 2) (i : Except Reserved Instr) : Except Reserved Instr :=
  if c = 0 then i else .error .channel

/-- The shape code in `arg[2:0]`, with `arg[31:3]` zero (R73, R79). -/
def decodeShape (arg : BitVec 32) : Except Reserved Instr :=
  if arg.extractLsb' 3 29 ≠ 0 then .error .mustBeZero
  else match (arg.extractLsb' 0 3).toNat with
    | 0 => .ok .envsOneShotSaw
    | 1 => .ok .envsRampDown
    | 2 => .ok .envsRampUp
    | 3 => .ok .envsRepeatedSaw
    | 4 => .ok .envsRepeatedTriangle
    | _ => .error .shape

/-- The mode bit `arg[8]` (R73, D5). -/
def decodeMode (arg : BitVec 32) : AmpMode :=
  if arg.extractLsb' 8 1 = 0 then .fixed else .variable

/-- The operands of AMP: `level` in `arg[7:0]`, `mode` in `arg[8]`, `arg[31:9]` zero (R73). -/
def decodeAmp (c : Channel) (arg : BitVec 32) : Except Reserved Instr :=
  if arg.extractLsb' 9 23 ≠ 0 then .error .mustBeZero
  else .ok (Instr.amp c (decodeMode arg) (arg.extractLsb' 0 8))

/-- The operand of MIX: `flags` in `arg[7:0]`, `arg[31:8]` zero (R73). -/
def decodeMix (arg : BitVec 32) : Except Reserved Instr :=
  if arg.extractLsb' 8 24 ≠ 0 then .error .mustBeZero
  else .ok (.mix (arg.extractLsb' 0 8))

/-- Decoding (R75): a command, or the reason the word is reserved. It depends on the word alone. -/
def decode (cw : CmdWord) : Except Reserved Instr :=
  match (opField cw).toNat with
  | 0 => (decodeChannel (chField cw)).map fun c => Instr.tone c (argField cw).toNat
  | 1 => noChannel (chField cw) (.ok (.noise (argField cw).toNat))
  | 2 => noChannel (chField cw) (.ok (.envp (argField cw)))
  | 3 => noChannel (chField cw) (decodeShape (argField cw))
  | 4 => (decodeChannel (chField cw)).bind fun c => decodeAmp c (argField cw)
  | 5 => noChannel (chField cw) (decodeMix (argField cw))
  | _ => .error .op

/-- The instruction the decoder reads from a table word: bits above `nbits` are zero, and a number that is no 37-bit
word (a bit above bit 36 set) is no command word (log 19). -/
def decodeTableWord (nbits w : Nat) : Option Instr :=
  if w % 2 ^ nbits < 2 ^ 37 then (decode (BitVec.ofNat 37 (w % 2 ^ nbits))).toOption else none

/-! ## The encoder -/

/-- A word of the one format `{op[2:0], ch[1:0], arg[31:0]}` (R70). -/
def cw37 (op : BitVec 3) (ch : BitVec 2) (arg : BitVec 32) : CmdWord := op ++ ch ++ arg

/-- The channel code (R72, D3). -/
def Channel.code : Channel → BitVec 2
  | .A => 0
  | .B => 1
  | .C => 2

/-- The mode code (R73, D5). -/
def AmpMode.code : AmpMode → BitVec 1
  | .fixed => 0
  | .variable => 1

/-- The shape code (R79, D4). -/
def ShapeType.code : ShapeType → BitVec 3
  | .oneShotSaw => 0
  | .rampDown => 1
  | .rampUp => 2
  | .repeatedSaw => 3
  | .repeatedTriangle => 4

/-- The operand field of AMP (R73). -/
def ampArg (m : AmpMode) (level : Byte) : BitVec 32 := (0 : BitVec 23) ++ m.code ++ level

/-- The operand field of ENVS (R73). -/
def shapeArg (s : ShapeType) : BitVec 32 := (0 : BitVec 29) ++ s.code

/-- The operand field of MIX (R73). -/
def mixArg (flags : Byte) : BitVec 32 := (0 : BitVec 24) ++ flags

/-- The command word of a well-formed command, from the encoding tables R70 to R73 and R79. -/
def encode : Instr → CmdWord
  | .toneA f => cw37 0 (Channel.code .A) (BitVec.ofNat 32 f)
  | .toneB f => cw37 0 (Channel.code .B) (BitVec.ofNat 32 f)
  | .toneC f => cw37 0 (Channel.code .C) (BitVec.ofNat 32 f)
  | .noise f => cw37 1 0 (BitVec.ofNat 32 f)
  | .envp fe => cw37 2 0 fe
  | .envsOneShotSaw => cw37 3 0 (shapeArg .oneShotSaw)
  | .envsRampDown => cw37 3 0 (shapeArg .rampDown)
  | .envsRampUp => cw37 3 0 (shapeArg .rampUp)
  | .envsRepeatedSaw => cw37 3 0 (shapeArg .repeatedSaw)
  | .envsRepeatedTriangle => cw37 3 0 (shapeArg .repeatedTriangle)
  | .ampA m l => cw37 4 (Channel.code .A) (ampArg m l)
  | .ampB m l => cw37 4 (Channel.code .B) (ampArg m l)
  | .ampC m l => cw37 4 (Channel.code .C) (ampArg m l)
  | .mix f => cw37 5 0 (mixArg f)

/-! ## The opcode table -/

/-- The match and mask columns of spec/opcode_table.json, one row per constructor. -/
def Instr.row : Instr → CmdWord × CmdWord
  | .toneA _ => (0x0000000000, 0x1F00000000)
  | .toneB _ => (0x0100000000, 0x1F00000000)
  | .toneC _ => (0x0200000000, 0x1F00000000)
  | .noise _ => (0x0400000000, 0x1F00000000)
  | .envp _ => (0x0800000000, 0x1F00000000)
  | .envsOneShotSaw => (0x0C00000000, 0x1FFFFFFFFF)
  | .envsRampDown => (0x0C00000001, 0x1FFFFFFFFF)
  | .envsRampUp => (0x0C00000002, 0x1FFFFFFFFF)
  | .envsRepeatedSaw => (0x0C00000003, 0x1FFFFFFFFF)
  | .envsRepeatedTriangle => (0x0C00000004, 0x1FFFFFFFFF)
  | .ampA _ _ => (0x1000000000, 0x1FFFFFFE00)
  | .ampB _ _ => (0x1100000000, 0x1FFFFFFE00)
  | .ampC _ _ => (0x1200000000, 0x1FFFFFFE00)
  | .mix _ => (0x1400000000, 0x1FFFFFFF00)

/-- The 14 rows of spec/opcode_table.json in the table's order. -/
def opcodeTable : List (CmdWord × CmdWord) :=
  [Instr.row (.toneA 0), Instr.row (.toneB 0), Instr.row (.toneC 0), Instr.row (.noise 0), Instr.row (.envp 0),
   Instr.row .envsOneShotSaw, Instr.row .envsRampDown, Instr.row .envsRampUp, Instr.row .envsRepeatedSaw,
   Instr.row .envsRepeatedTriangle, Instr.row (.ampA .fixed 0), Instr.row (.ampB .fixed 0),
   Instr.row (.ampC .fixed 0), Instr.row (.mix 0)]

/-- A word selects a row when `cw & mask == match` (30_encoding.md, the note after R75). -/
def selectsRow (cw : CmdWord) (row : CmdWord × CmdWord) : Bool := cw &&& row.2 == row.1

/-! ## The written form -/

/-- `ch` as it is written (R81). -/
def Channel.asm : Channel → String
  | .A => "A"
  | .B => "B"
  | .C => "C"

/-- `Fixed` or `Variable` (R81). -/
def AmpMode.asm : AmpMode → String
  | .fixed => "Fixed"
  | .variable => "Variable"

/-- `AMP ch, mode, level` (R81). -/
def ampAsm (c : Channel) (m : AmpMode) (l : Byte) : String :=
  "AMP " ++ c.asm ++ ", " ++ m.asm ++ ", " ++ toString l.toNat

/-- The spec's written form of a command (R81, D24): mnemonic and operands, `fe` as its bits. -/
def Instr.asm : Instr → String
  | .toneA f => "TONE A, " ++ toString f
  | .toneB f => "TONE B, " ++ toString f
  | .toneC f => "TONE C, " ++ toString f
  | .noise f => "NOISE " ++ toString f
  | .envp fe => "ENVP 0x" ++ fe.toHex
  | .envsOneShotSaw => "ENVS OneShotSaw"
  | .envsRampDown => "ENVS RampDown"
  | .envsRampUp => "ENVS RampUp"
  | .envsRepeatedSaw => "ENVS RepeatedSaw"
  | .envsRepeatedTriangle => "ENVS RepeatedTriangle"
  | .ampA m l => ampAsm .A m l
  | .ampB m l => ampAsm .B m l
  | .ampC m l => ampAsm .C m l
  | .mix f => "MIX 0x" ++ f.toHex

end Sys2Proof
end

