-- ==== Sys2Proof/Machine/State.lean ====
section
/-! DEFINITION. The state of AYW and of the environment a model needs (10_state.md R20), the events and outcomes
(00_scope.md R12, R13), and the state after reset (10_state.md R36). -/

namespace Sys2Proof.Machine

/-- The level of a digital line (R10). -/
inductive Level where
  | low
  | high
deriving DecidableEq, Repr

/-- The three states of the control FSM (R22, R140). -/
inductive BusState where
  | idle
  | latchAddress
  | writeData
deriving DecidableEq, Repr

/-- The event alphabet (R12): everything AYW does to its surroundings. -/
inductive Event where
  /-- The three control lines are driven to the triple of a bus state. -/
  | setBus (b : BusState)
  /-- The latch-enable line is driven to a level. -/
  | setLE (l : Level)
  /-- A byte is handed to the transfer primitive. -/
  | send (b : Byte)
deriving DecidableEq, Repr

/-- A RegisterPacket: (address, value) (R80). -/
structure Packet where
  addr : RegisterAddress
  val : Byte
deriving DecidableEq, Repr

/-- A WritePayload: one packet, or two whose order matters (R80). -/
inductive WritePayload where
  | single (p : Packet)
  | double (p q : Packet)
deriving DecidableEq, Repr

/-- The class of an ENVP operand, decided on its bit pattern (R103). -/
inductive EnvClass where
  | zero
  | positive
  | refused
deriving DecidableEq, Repr

/-- A binary floating-point format: precision in bits, exponent of the smallest subnormal, and the exponent of the
first power of two that overflows (R104). -/
structure FloatFormat where
  prec : Nat
  qmin : Int
  overflowExp : Nat
deriving DecidableEq, Repr

/-- The named flags of MixerSettings (R78). -/
inductive MixerFlag where
  | tone (ch : Channel)
  | noise (ch : Channel)
  | inputA
  | inputB
deriving DecidableEq, Repr

/-- The named flags of EnvelopeShapeCycle (R79). -/
structure ShapeFlags where
  hold : Bool
  alternate : Bool
  attack : Bool
  continue_ : Bool
deriving DecidableEq, Repr

/-- Why a step stops with a fault. -/
inductive Fault where
  /-- Raised by `step` in a faulted block, with the record of the TONE command that raised `DivideByZero`: "A faulted
  block has no enabled step" (R194). The fault's ENTRY is a next state (`Ops.raiseDivideByZero`). Safe. -/
  | divideByZero (raisedBy : Option Channel)
  /-- Raised by entering WriteData while the chip's address latch holds 0xE or 0xF, which are no registers (R50, R58).
  No run reaches it (the obligation `OnlyTheDivisionFaultStops`). Safe. -/
  | noSuchRegister (addr : RegisterAddress)
  /-- Raised by the sequencer when it is busy and has no packet: no step is enabled (R144). No run reaches it. Safe. -/
  | noPacket
deriving DecidableEq, Repr

/-- Why the model gives an input no meaning. -/
inductive Refusal where
  /-- An arm of `exec` that has no meaning yet. Safe. -/
  | notModelled (mnemonic : String)
  /-- Raised by `step`: the presented word is reserved (R74, R205). Safe. -/
  | reservedWord (why : Reserved)
  /-- Raised by ENVP: the operand is negative, infinite or NaN (R108, R205). Safe. -/
  | envpOperand (fe : BitVec 32)
  /-- Raised by ENVP under `ENV_ARITH = ieee32`: the quotient overflows to infinity, "this alternative defines nothing
  and the command is refused" (R104). Safe. -/
  | envpQuotient (fe : BitVec 32)
  /-- Raised by `exec` while `ready` is clear: a command presented then "has no meaning in the model" (R174). Safe. -/
  | notReady
deriving DecidableEq, Repr

/-- What an encoder answers (R13, R197): a payload, the division fault, or a refusal. -/
inductive Encoded where
  | payload (p : WritePayload)
  | divideByZero (ch : Channel)
  | refused (r : Refusal)
deriving DecidableEq, Repr

/-- The chip's one address space: its cells by rising address (R50). An address that is not listed is no cell (log 7). -/
abbrev Memory := List Host.Cell

/-- The 14 cells before anything has written them: each holds a free byte (R36, U9; log 7). -/
def Memory.powerOn : Memory := (List.range chipCells).map fun a => (a, Config.powerOnCell a)

/-- The complete state (R20), the environment's inputs (D1), the constants, and the model's own two fields. -/
structure State where
  /-- Output line "direction" (R21). -/
  dir : Level
  /-- Output line "control-1" (R21). -/
  c1 : Level
  /-- Output line "control-2" (R21). -/
  c2 : Level
  /-- The latch-enable line (R24). -/
  le : Level
  /-- The micro-step index (R26). -/
  seq : Fin 12
  /-- Set while a byte handed to the transfer primitive is not yet reported sent (R25). -/
  txwait : Bool
  /-- `tx_byte`, meaningful only while `txwait` is set (R25, R148). -/
  txByte : Byte
  /-- The packets of the command in progress that have not completed their transaction (R27). -/
  queue : List Packet
  /-- A command may be presented (R28, R174). -/
  ready : Bool
  /-- The one fault has been raised; cleared only by reset (R28, R194). -/
  fault : Bool
  /-- The record of the command that raised the fault: kind TONE, its channel (R193; log 11). -/
  faultBy : Option Channel
  /-- The chip's register file `R[0..13]`: 14 cells by address, each with its byte (R31; log 7). -/
  chip : Memory
  /-- `addr_latch`: the register address the chip has taken from the bus (R34). -/
  addrLatch : RegisterAddress
  /-- `bus_byte`: what the external latch presents (R33). -/
  busByte : Byte
  /-- The external shift register: the last byte reported sent (R203; log 9). -/
  shiftReg : Byte
  /-- The command words the environment has yet to present, in order (D1, R174; log 2). -/
  cmdIn : List CmdWord
  /-- For each `Send` to come: how many steps pass before the environment's `TxDone`, or never (R148; log 10). -/
  txPlan : List (Option Nat)
  /-- The environment applies reset at the next step (R220; log 13). -/
  rstReq : Bool
  /-- The constants `CLOCK_HZ`, `RegAddr`, `ENV_ARITH` (R7, R8, R29; log 3). -/
  cfg : Cfg
  /-- The model's own: how many free values have been drawn (log 6). -/
  freeCtr : Nat
  /-- The model's own: the events so far, oldest first (R12; log 15). -/
  trace : List Event
deriving DecidableEq, Repr

/-- The machine right after reset (R36). The values R36 calls unspecified (`addrLatch`, `busByte`), `txByte` and
`shiftReg` are zero: DESIGN CHOICE, unsafe (log 8). The chip's cells are unspecified: each holds a free byte (log 7). No
command is presented, no reset requested, every `Send` answered at the next step: DESIGN CHOICE, unsafe (log 10). -/
def State.reset : State where
  dir := .low
  c1 := .low
  c2 := .high
  le := .high
  seq := 0
  txwait := false
  txByte := 0
  queue := []
  ready := true
  fault := false
  faultBy := none
  chip := Memory.powerOn
  addrLatch := 0
  busByte := 0
  shiftReg := 0
  cmdIn := []
  txPlan := []
  rstReq := false
  cfg := Cfg.default
  freeCtr := 0
  trace := []

end Sys2Proof.Machine
end

