-- ==== Sys2Proof/Machine/Operands.lean ====
section
/-! DEFINITION. Operand forms: packets, the byte split, and the binary32 operand of ENVP (20_memory.md R52,
30_encoding.md R73, R77 to R80, 40_encoders_period.md R103, R106). -/

namespace Sys2Proof.Machine

/-! ## Packets and payloads -/

/-- The packets of a payload, in the order they are written (R80, R172). -/
def WritePayload.packets : WritePayload → List Packet
  | .single p => [p]
  | .double p q => [p, q]

/-- The packet that writes a byte to a named register (R76, R80). -/
def packetFor (c : Cfg) (r : RegName) (v : Byte) : Packet := ⟨c.regAddr.get r, v⟩

/-- The address byte `zext_8(a)` (R77, D12). -/
def addressByte (a : RegisterAddress) : Byte := a.setWidth 8

/-! ## The byte split -/

/-- `fine(p) = trunc_8(p % 256)` (R106). -/
def fineByte (p : Nat) : Byte := trunc8 (p % 256)

/-- `coarse(p) = trunc_8(p / 256)` (R106): bits 16 and above are lost (D25). -/
def coarseByte (p : Nat) : Byte := trunc8 (p / 256)

/-! ## The binary32 operand of ENVP -/

/-- The sign `fe[31]` (R73). -/
def f32Sign (fe : BitVec 32) : BitVec 1 := fe.extractLsb' 31 1

/-- The exponent field `fe[30:23]` (R73). -/
def f32Exp (fe : BitVec 32) : Nat := (fe.extractLsb' 23 8).toNat

/-- The fraction `fe[22:0]` (R73). -/
def f32Frac (fe : BitVec 32) : Nat := (fe.extractLsb' 0 23).toNat

/-- The operand classes of R103: zero (both signs), positive finite (subnormals included), refused. -/
def envClass (fe : BitVec 32) : EnvClass :=
  if fe.extractLsb' 0 31 = 0 then .zero
  else if f32Sign fe = 0 ∧ f32Exp fe ≠ 0xFF then .positive
  else .refused

/-- The significand of a finite pattern: hidden bit unless the exponent field is zero. PRESUMED by the spec itself
(R73, G6; log 16). -/
def f32Significand (fe : BitVec 32) : Nat :=
  if f32Exp fe = 0 then f32Frac fe else 2 ^ 23 + f32Frac fe

/-- The value of a positive finite pattern is `significand * 2 ^ (scale - 150)` (log 16). -/
def f32Scale (fe : BitVec 32) : Nat := max (f32Exp fe) 1

/-- Numerator of `val(fe)`, the exact rational the pattern denotes (R73). -/
def f32Num (fe : BitVec 32) : Nat := f32Significand fe * 2 ^ (f32Scale fe - 150)

/-- Denominator of `val(fe)` (R73). -/
def f32Den (fe : BitVec 32) : Nat := 2 ^ (150 - f32Scale fe)

/-! ## Named bits of the operand and value bytes -/

/-- The bit of a mixer flag (R78, D16). Bit 0 and bits 7:6 are the document's, bits 1 to 5 are PRESUMED by the spec
itself; no rule depends on the names (log 17). -/
def MixerFlag.bit : MixerFlag → Nat
  | .tone .A => 0
  | .tone .B => 1
  | .tone .C => 2
  | .noise .A => 3
  | .noise .B => 4
  | .noise .C => 5
  | .inputA => 6
  | .inputB => 7

/-- The flags each shape sets (R79, "flags set"). -/
def shapeFlags : ShapeType → ShapeFlags
  | .oneShotSaw => ⟨false, false, true, false⟩
  | .rampDown => ⟨false, false, false, false⟩
  | .rampUp => ⟨true, false, true, true⟩
  | .repeatedSaw => ⟨false, false, false, true⟩
  | .repeatedTriangle => ⟨false, true, false, true⟩

/-- The byte of a flag set: `{continue, attack, alternate, hold}` in bits 3:0, bits 7:4 zero (R78, R79). -/
def ShapeFlags.byte (f : ShapeFlags) : Byte :=
  (0 : BitVec 4) ++ BitVec.ofBool f.continue_ ++ BitVec.ofBool f.attack ++ BitVec.ofBool f.alternate
    ++ BitVec.ofBool f.hold

end Sys2Proof.Machine
end

