-- ==== Sys2Proof/Machine/EnvDiv.lean ====
section
/-! DEFINITION. `EnvDiv`, the envelope divider under each of the three evaluations of 40_encoders_period.md R104:
exact rational arithmetic, binary32 and binary64 with every operation rounded to nearest even. -/

namespace Sys2Proof.Machine

/-- The floor of the base-2 logarithm of a positive rational `n / d`. -/
def ratLog2 (n d : Nat) : Int :=
  let k : Int := (n.log2 : Int) - (d.log2 : Int)
  if d * 2 ^ k.toNat ≤ n * 2 ^ (-k).toNat then k else k - 1

/-- The integer nearest to `n / d`, ties to even. -/
def roundHalfEven (n d : Nat) : Nat :=
  let q := n / d
  let r := n % d
  if 2 * r < d then q
  else if d < 2 * r then q + 1
  else q + q % 2

/-- binary32 (R104). -/
def binary32 : FloatFormat := ⟨24, -149, 128⟩

/-- binary64 (R104). -/
def binary64 : FloatFormat := ⟨53, -1074, 1024⟩

/-- The exponent of the last place of `n / d` in a format. -/
def FloatFormat.quantum (f : FloatFormat) (n d : Nat) : Int :=
  max (ratLog2 n d - (f.prec - 1)) f.qmin

/-- `n / d` rounded to nearest even in a format, with no upper bound on the exponent, as a numerator and a
denominator. -/
def FloatFormat.round (f : FloatFormat) (n d : Nat) : Nat × Nat :=
  let k := f.quantum n d
  let m := roundHalfEven (n * 2 ^ (-k).toNat) (d * 2 ^ k.toNat)
  (m * 2 ^ k.toNat, 2 ^ (-k).toNat)

/-- The rounded value overflows to infinity: it is at least `2 ^ overflowExp`. -/
def FloatFormat.overflows (f : FloatFormat) (x : Nat × Nat) : Bool := decide (f.overflowExp ≤ (x.1 / x.2).log2)

/-- R104, `ieee32` and `ieee64`: convert the clock, multiply the operand by 256, divide, each rounded; the integer part
of the result. An infinite product gives 0; an infinite quotient gives nothing. -/
def envDivFloat (f : FloatFormat) (clk : Nat) (fe : BitVec 32) : Option Nat :=
  let c := f.round clk 1
  let p := f.round (256 * f32Num fe) (f32Den fe)
  if f.overflows p then some 0
  else
    let q := f.round (c.1 * p.2) (c.2 * p.1)
    if f.overflows q then none else some (q.1 / q.2)

/-- R104, `exact`: `floor(CLOCK_HZ / (256 * val(fe)))`. -/
def envDivExact (clk : Nat) (fe : BitVec 32) : Nat := clk * f32Den fe / (256 * f32Num fe)

/-- `EnvDiv(CLOCK_HZ, fe)` for a positive finite operand (R104); nothing where `ieee32` defines nothing. -/
def envDiv : EnvArith → Nat → BitVec 32 → Option Nat
  | .exact, clk, fe => some (envDivExact clk fe)
  | .ieee32, clk, fe => envDivFloat binary32 clk fe
  | .ieee64, clk, fe => envDivFloat binary64 clk fe

end Sys2Proof.Machine
end

