-- ==== Sys2Proof/Machine/Flags.lean ====
section
/-! DEFINITION. The two status flags `ready` and `fault` (10_state.md R28): every change of them, in one place. No
command reads either flag. -/

namespace Sys2Proof.Machine

/-- A command has been accepted: `ready <- 0` (R174). -/
def State.setBusy (s : State) : State := { s with ready := false }

/-- The command in progress is complete: `ready <- 1` (R173). -/
def State.setReady (s : State) : State := { s with ready := true }

/-- The division fault: `fault <- 1`, `ready <- 0`, and the record of the command that raised it (R193, R194). -/
def State.setFault (s : State) (ch : Channel) : State :=
  { s with fault := true, ready := false, faultBy := some ch }

/-- Reset: `ready <- 1`, `fault <- 0` (R36, R220). -/
def State.clearFlags (s : State) : State := { s with ready := true, fault := false, faultBy := none }

end Sys2Proof.Machine
end

