-- ==== Sys2Proof/Machine/Ops.lean ====
section
/-! DEFINITION. The named operations over the state: the chip's cells, the lines and the events, the byte-transfer
port, accepting a command, taking the one fault, and reset (spec files 10, 20, 42, 43, 60, 70). -/

namespace Sys2Proof.Machine

/-! ## The chip's register file (R31, R50) -/

/-- `R[a]`, or nothing where no such cell exists: addresses 0xE and above (R50). AYW never reads it (R55). -/
def Memory.read : Memory → Nat → Option Byte
  | [], _ => none
  | (b, w) :: m, a => if a = b then some w else Memory.read m a

/-- `R[a] <- v`, keeping the addresses rising. -/
def Memory.write : Memory → Nat → Byte → Memory
  | [], a, v => [(a, v)]
  | (b, w) :: m, a, v =>
    if a < b then (a, v) :: (b, w) :: m
    else if a = b then (a, v) :: m
    else (b, w) :: Memory.write m a v

/-- The canonical form: exactly the 14 cells, by rising address (R50). What is not listed does not exist and reads as
nothing, so no entry equals what an unlisted address reads as, and equal register files are equal lists. -/
abbrev Memory.wf (m : Memory) : Prop := m.map Prod.fst = List.range chipCells

/-- The cell of a named register (R31, R76). -/
def State.reg (s : State) (r : RegName) : Option Byte := s.chip.read (s.cfg.regAddr.get r).toNat

/-! ## Lines and bus state (R21, R22) -/

/-- The levels (direction, control-1, control-2) of a bus state (R22). -/
def BusState.levels : BusState → Level × Level × Level
  | .idle => (.low, .low, .high)
  | .latchAddress => (.high, .high, .high)
  | .writeData => (.high, .low, .high)

/-- The bus state a triple of levels stands for; the five other triples stand for none (R22, R23). -/
def busStateOf : Level × Level × Level → Option BusState
  | (.low, .low, .high) => some .idle
  | (.high, .high, .high) => some .latchAddress
  | (.high, .low, .high) => some .writeData
  | _ => none

/-- The levels on the three control lines. -/
def State.triple (s : State) : Level × Level × Level := (s.dir, s.c1, s.c2)

/-- "The state register *is* the triple" (R22). -/
def State.busState (s : State) : Option BusState := busStateOf s.triple

/-- `emit e` (R11, R12). -/
def State.emit (s : State) (e : Event) : State := { s with trace := s.trace ++ [e] }

/-- Drive the three control lines together (R141, D11). -/
def State.driveBus (s : State) (b : BusState) : State :=
  { s with dir := b.levels.1, c1 := b.levels.2.1, c2 := b.levels.2.2 }

/-- What the bus carries at the next moment: any value while `le` is Low, what the latch presents otherwise
(R33, U8; log 6). -/
def State.floatBus (s : State) : State :=
  match s.le with
  | .low => { s with busByte := Config.freeByte s.freeCtr, freeCtr := s.freeCtr + 1 }
  | .high => s

/-- The chip takes the address on leaving LatchAddress, if it is a register address (R58). -/
def State.captureAddress (s : State) : State :=
  if s.busState = some .latchAddress ∧ s.busByte.toNat < chipCells then
    { s with addrLatch := s.busByte.setWidth 4 }
  else s

/-- The chip stores the bus byte on entering WriteData: `R[addr_latch] <- bus_byte` (R58). Addresses 0xE and 0xF are no
cells (R50): a named fault, which no run reaches (log 14). -/
def State.storeByte (s : State) : Host.Outcome State Fault Refusal :=
  if s.addrLatch.toNat < chipCells then
    .next { s with chip := s.chip.write s.addrLatch.toNat s.busByte }
  else .fault (.noSuchRegister s.addrLatch)

/-- `Enter(S)` (R141) with its effect on the chip (R58). -/
def enter (b : BusState) (s : State) : Host.Outcome State Fault Refusal :=
  match b with
  | .idle => .next ((s.captureAddress.driveBus .idle).emit (.setBus .idle))
  | .latchAddress => .next ((s.driveBus .latchAddress).emit (.setBus .latchAddress))
  | .writeData =>
    match s.storeByte with
    | .next t => .next ((t.driveBus .writeData).emit (.setBus .writeData))
    | .fault f => .fault f
    | .refused r => .refused r

/-- `le <- l` (R142). Raising it ends the transfer procedure: the latch presents the byte sent (R33). -/
def driveLE (l : Level) (s : State) : State :=
  match l with
  | .low => ({ s with le := .low } : State).floatBus.emit (.setLE .low)
  | .high => { s with le := .high, busByte := s.shiftReg }.emit (.setLE .high)

/-! ## The byte-transfer port (R25, R148) -/

/-- AYW's half of `Send(b)`: `tx_byte <- b`, `txwait <- 1`, and the event is recorded (R148). -/
def startSend (b : Byte) (s : State) : State :=
  { s.floatBus with txByte := b, txwait := true }.emit (.send b)

/-- The environment's `TxDone`: it clears `txwait`, the byte stands in the shift register, and `seq` advances
(R25, R148). -/
def txDone (s : State) : State :=
  { s.floatBus with txwait := false, shiftReg := s.txByte, seq := s.seq + 1, txPlan := s.txPlan.tail }

/-- A step while `txwait` is set: the environment answers `TxDone`, lets the step pass, or never answers (R148, R198;
log 10). There is no timeout. -/
def waitTransfer (s : State) : State :=
  match s.txPlan with
  | [] => txDone s
  | some 0 :: _ => txDone s
  | some (n + 1) :: rest => { s.floatBus with txPlan := some n :: rest }
  | none :: _ => s.floatBus

/-! ## The queue and the micro-step index (R26, R27, R173) -/

/-- The head packet's transaction is complete: it leaves the queue, and the command is complete when the queue is
empty (R173). -/
def retire (s : State) : State :=
  match s.queue.tail with
  | [] => { s with queue := [] }.setReady
  | q :: rest => { s with queue := q :: rest }

/-- `seq` advances by one, and after u11 it returns to 0 and the transaction is complete (R26, R144, R173). -/
def advance (s : State) : State :=
  if s.seq = 11 then retire { s with seq := 0 } else { s with seq := s.seq + 1 }

/-! ## Accepting a command, and the one fault (R174, R194) -/

/-- The next command word on the port, and the state with it taken (R174). -/
def State.fetchCommand (s : State) : Option (CmdWord × State) :=
  match s.cmdIn with
  | [] => none
  | w :: rest => some (w, { s with cmdIn := rest })

/-- `queue <- payload`, `seq <- 0`, `ready <- 0` (R174). -/
def acceptPayload (p : WritePayload) (s : State) : State :=
  { s with queue := p.packets, seq := 0 }.setBusy

/-- Fault entry (R194): no event, no line changes, `queue` stays as it is (empty), `fault <- 1`, `ready <- 0`. There is
no handler and no return (R195): the only way out is `resetBlock`. -/
def raiseDivideByZero (ch : Channel) (s : State) : State := s.setFault ch

/-- Executing a command is accepting it (R174, log 1): run the encoder; refuse, fault, or load the sequencer, in that
order (R197). A command presented while `ready` is clear has no meaning (R174). -/
def present (e : Encoded) (s : State) : Host.Outcome State Fault Refusal :=
  if s.ready then
    match e with
    | .refused r => .refused r
    | .divideByZero ch => .next (raiseDivideByZero ch s)
    | .payload p => .next (acceptPayload p s)
  else .refused .notReady

/-! ## Reset (R220) -/

/-- What a reset does to the chip: nothing (R220), but that the register of a transaction in progress holds "any value"
afterwards (U15): a free byte (log 13). -/
def State.freeAbandonedCell (s : State) : State :=
  match s.queue with
  | [] => s
  | p :: _ =>
    if s.seq = 0 then s
    else { s with chip := s.chip.write p.addr.toNat (Config.freeByte s.freeCtr), freeCtr := s.freeCtr + 1 }

/-- The reset action (R220): AYW's own state at the values of R36; the chip's address latch and the external latch
untouched. The model's choices, all DESIGN CHOICE (log 13): `txByte`, for which R36 has no row, keeps the byte last
handed over; the shift register is untouched; an abandoned `Send` takes its answer with it; `le` rises without a
finished transfer, so a bus that was floating is left at a free byte; the lines move without an event. The record of
the fault goes with its flag (log 11). -/
def resetBlock (s : State) : State :=
  { s.floatBus.freeAbandonedCell.clearFlags with
    dir := .low, c1 := .low, c2 := .high, le := .high, seq := 0, txwait := false, queue := [],
    txPlan := if s.txwait then s.txPlan.tail else s.txPlan, rstReq := false }

end Sys2Proof.Machine
end

