-- ==== Sys2Proof/Machine/Period.lean ====
section
/-! DEFINITION. The period commands TONE, NOISE and ENVP (40_encoders_period.md): the arithmetic stage of the encoder
and the meaning of each command. -/

namespace Sys2Proof.Machine

/-! ## TONE (R101) -/

/-- `period = CLOCK_HZ / (16 * freq)`, exact product, truncating division (R101, R105). -/
def tonePeriod (c : Cfg) (freq : Nat) : Nat := c.clockHz.toNat / (16 * freq)

/-- The TONE encoder (R101): fine packet first; division fault exactly at `freq = 0`. -/
def encodeTone (c : Cfg) (ch : Channel) (freq : Nat) : Encoded :=
  if freq = 0 then .divideByZero ch
  else .payload (.double (packetFor c (.toneFine ch) (fineByte (tonePeriod c freq)))
    (packetFor c (.toneCoarse ch) (coarseByte (tonePeriod c freq))))

/-- TONE A, freq (R101, R174). -/
def execToneA (freq : Nat) (s : State) : Host.Outcome State Fault Refusal :=
  present (encodeTone s.cfg .A freq) s

/-- TONE B, freq (R101, R174). -/
def execToneB (freq : Nat) (s : State) : Host.Outcome State Fault Refusal :=
  present (encodeTone s.cfg .B freq) s

/-- TONE C, freq (R101, R174). -/
def execToneC (freq : Nat) (s : State) : Host.Outcome State Fault Refusal :=
  present (encodeTone s.cfg .C freq) s

/-! ## NOISE (R102) -/

/-- The noise value (R102): 0 at `freq = 0`, otherwise the quotient masked to its low five bits, never clamped (C3). -/
def noiseValue (c : Cfg) (freq : Nat) : Byte :=
  if freq = 0 then 0 else trunc8 ((c.clockHz.toNat / (16 * freq)) &&& 0x1F)

/-- The NOISE encoder (R102). -/
def encodeNoise (c : Cfg) (freq : Nat) : Encoded :=
  .payload (.single (packetFor c .noisePeriod (noiseValue c freq)))

/-- NOISE freq (R102, R174). -/
def execNoise (freq : Nat) (s : State) : Host.Outcome State Fault Refusal :=
  present (encodeNoise s.cfg freq) s

/-! ## ENVP (R103) -/

/-- The payload of a divider: coarse packet first (R53, R103). -/
def envPayload (c : Cfg) (clkDiv : Nat) : WritePayload :=
  .double (packetFor c .envCoarse (coarseByte clkDiv)) (packetFor c .envFine (fineByte clkDiv))

/-- The ENVP encoder (R103): the refused class (R108), the zero class with the open divider (R107), and `EnvDiv`
(R104). -/
def encodeEnvp (c : Cfg) (fe : BitVec 32) : Encoded :=
  match envClass fe with
  | .refused => .refused (.envpOperand fe)
  | .zero => .payload (envPayload c Config.envZeroDiv.toNat)
  | .positive =>
    match envDiv c.envArith c.clockHz.toNat fe with
    | some d => .payload (envPayload c d)
    | none => .refused (.envpQuotient fe)

/-- ENVP fe (R103, R174). -/
def execEnvp (fe : BitVec 32) (s : State) : Host.Outcome State Fault Refusal :=
  present (encodeEnvp s.cfg fe) s

end Sys2Proof.Machine
end

