-- ==== Sys2Proof/Machine/Table.lean ====
section
/-! DEFINITION. The table commands ENVS, AMP and MIX (41_encoders_table.md): the ROM stage of the encoder and the
meaning of each command. -/

namespace Sys2Proof.Machine

/-! ## ENVS (R120) -/

/-- `ShapeTable` (R79, R120). -/
def shapeTable : ShapeType → Byte
  | .oneShotSaw => 0x04
  | .rampDown => 0x00
  | .rampUp => 0x0D
  | .repeatedSaw => 0x08
  | .repeatedTriangle => 0x0A

/-- The ENVS encoder (R120). -/
def encodeShape (c : Cfg) (sh : ShapeType) : Encoded :=
  .payload (.single (packetFor c .envShape (shapeTable sh)))

/-- ENVS OneShotSaw (R120, R174). -/
def execEnvsOneShotSaw (s : State) : Host.Outcome State Fault Refusal :=
  present (encodeShape s.cfg .oneShotSaw) s

/-- ENVS RampDown (R120, R174). -/
def execEnvsRampDown (s : State) : Host.Outcome State Fault Refusal :=
  present (encodeShape s.cfg .rampDown) s

/-- ENVS RampUp (R120, R174). -/
def execEnvsRampUp (s : State) : Host.Outcome State Fault Refusal :=
  present (encodeShape s.cfg .rampUp) s

/-- ENVS RepeatedSaw (R120, R174). -/
def execEnvsRepeatedSaw (s : State) : Host.Outcome State Fault Refusal :=
  present (encodeShape s.cfg .repeatedSaw) s

/-- ENVS RepeatedTriangle (R120, R174). -/
def execEnvsRepeatedTriangle (s : State) : Host.Outcome State Fault Refusal :=
  present (encodeShape s.cfg .repeatedTriangle) s

/-! ## AMP (R121) -/

/-- The amplitude value (R121): Fixed masks the level to four bits, Variable ignores it. -/
def ampValue (m : AmpMode) (level : Byte) : Byte :=
  match m with
  | .fixed => level &&& 0x0F
  | .variable => 0x10

/-- The AMP encoder (R121). -/
def encodeAmp (c : Cfg) (ch : Channel) (m : AmpMode) (level : Byte) : Encoded :=
  .payload (.single (packetFor c (.amp ch) (ampValue m level)))

/-- AMP A, mode, level (R121, R174). -/
def execAmpA (mode : AmpMode) (level : Byte) (s : State) : Host.Outcome State Fault Refusal :=
  present (encodeAmp s.cfg .A mode level) s

/-- AMP B, mode, level (R121, R174). -/
def execAmpB (mode : AmpMode) (level : Byte) (s : State) : Host.Outcome State Fault Refusal :=
  present (encodeAmp s.cfg .B mode level) s

/-- AMP C, mode, level (R121, R174). -/
def execAmpC (mode : AmpMode) (level : Byte) (s : State) : Host.Outcome State Fault Refusal :=
  present (encodeAmp s.cfg .C mode level) s

/-! ## MIX (R122) -/

/-- The mixer value (R122): `flags & 0x3F`. -/
def mixValue (flags : Byte) : Byte := flags &&& 0x3F

/-- The MIX encoder (R122). -/
def encodeMixer (c : Cfg) (flags : Byte) : Encoded :=
  .payload (.single (packetFor c .mixer (mixValue flags)))

/-- MIX flags (R122, R174). -/
def execMix (flags : Byte) (s : State) : Host.Outcome State Fault Refusal :=
  present (encodeMixer s.cfg flags) s

end Sys2Proof.Machine
end

