-- ==== Sys2Proof/Machine/Dispatch.lean ====
section
/-! DEFINITION. The dispatch of `write(command)` over the command variants (43_facade.md R170, R171). -/

namespace Sys2Proof.Machine

def exec (i : Instr) (s : State) : Host.Outcome State Fault Refusal :=
  match i with
  | .toneA freq => Sys2Proof.Machine.execToneA freq s
  | .toneB freq => Sys2Proof.Machine.execToneB freq s
  | .toneC freq => Sys2Proof.Machine.execToneC freq s
  | .noise freq => Sys2Proof.Machine.execNoise freq s
  | .envp fe => Sys2Proof.Machine.execEnvp fe s
  | .envsOneShotSaw => Sys2Proof.Machine.execEnvsOneShotSaw s
  | .envsRampDown => Sys2Proof.Machine.execEnvsRampDown s
  | .envsRampUp => Sys2Proof.Machine.execEnvsRampUp s
  | .envsRepeatedSaw => Sys2Proof.Machine.execEnvsRepeatedSaw s
  | .envsRepeatedTriangle => Sys2Proof.Machine.execEnvsRepeatedTriangle s
  | .ampA mode level => Sys2Proof.Machine.execAmpA mode level s
  | .ampB mode level => Sys2Proof.Machine.execAmpB mode level s
  | .ampC mode level => Sys2Proof.Machine.execAmpC mode level s
  | .mix flags => Sys2Proof.Machine.execMix flags s

end Sys2Proof.Machine
end

