-- ==== Sys2Proof/Machine/Sequencer.lean ====
section
/-! DEFINITION. The bus sequencer (42_bus_sequencer.md): the 12 micro-steps of one transaction and the step relation of
R144. -/

namespace Sys2Proof.Machine

/-- The action of row `u<seq>` of R144 for a packet, named by the event it records. -/
def microAction (p : Packet) (seq : Fin 12) : Event :=
  match seq with
  | 0 => .setBus .idle
  | 1 => .setBus .latchAddress
  | 2 => .setLE .low
  | 3 => .send (addressByte p.addr)
  | 4 => .setLE .high
  | 5 => .setBus .idle
  | 6 => .setBus .idle
  | 7 => .setLE .low
  | 8 => .send p.val
  | 9 => .setLE .high
  | 10 => .setBus .writeData
  | 11 => .setBus .idle

/-- Perform an action and, unless it is a `Send`, advance `seq` (R144): after a `Send` it advances at `TxDone`. -/
def perform (e : Event) (s : State) : Host.Outcome State Fault Refusal :=
  match e with
  | .setBus b =>
    match enter b s with
    | .next t => .next (advance t)
    | .fault f => .fault f
    | .refused r => .refused r
  | .setLE l => .next (advance (driveLE l s))
  | .send b => .next (startSend b s)

/-- The one enabled step of a busy sequencer: the action of row `seq` for the head packet (R144). A busy sequencer with
no packet has none (log 14). -/
def microStep (s : State) : Host.Outcome State Fault Refusal :=
  match s.queue with
  | [] => .fault .noPacket
  | p :: _ => perform (microAction p s.seq) s

end Sys2Proof.Machine
end

