-- ==== Sys2Proof/Machine/Step.lean ====
section
/-! DEFINITION. One step of the machine: a reset by the environment, the stop of a faulted block, a moment of the wait
for `TxDone`, the acceptance of a command, or one micro-step of the sequencer (R144, R148, R174, R194, R220). -/

namespace Sys2Proof.Machine

/-- Accept the next command (R174): decode, then execute; a reserved word is refused (R205). With no command presented
the block waits (R221) and nothing changes (log 2). -/
def acceptStep (s : State) : Host.Outcome State Fault Refusal :=
  match s.fetchCommand with
  | none => .next s
  | some (w, t) =>
    match decode w with
    | .error e => .refused (.reservedWord e)
    | .ok i => exec i t

/-- The step of the block with its environment. Reset comes first and leaves even a fault (R194, R220); a faulted block
has no enabled step (R194); while `txwait` is set nothing of AYW moves (R25); a ready block accepts (R174); a busy one
performs its next micro-step (R144). -/
def step (s : State) : Host.Outcome State Fault Refusal :=
  if s.rstReq then .next (resetBlock s)
  else if s.fault then .fault (.divideByZero s.faultBy)
  else if s.txwait then .next (waitTransfer s)
  else if s.ready then acceptStep s
  else microStep s

/-- The state with a command word presented at the port, the block ready to accept it at the very next step (R174;
log 19). The port has 37 lines: the word's low 37 bits. -/
def State.withFetchWord (s : State) (nbits w : Nat) : State :=
  { s with
    cmdIn := BitVec.ofNat 37 (w % 2 ^ nbits) :: s.cmdIn
    rstReq := false, fault := false, faultBy := none, txwait := false, ready := true, queue := [], seq := 0 }

end Sys2Proof.Machine
end

