-- ==== Sys2Proof/Machine/Facade.lean ====
section
/-! DEFINITION. The facade's two views of a command as a whole: its payload and its trace (43_facade.md R171, R173). The
step relation does not use them; the statements do. -/

namespace Sys2Proof.Machine

/-- The encoder of each command (R171): a function of the operands and the constants alone (R100). -/
def encodeCommand (c : Cfg) : Instr → Encoded
  | .toneA f => encodeTone c .A f
  | .toneB f => encodeTone c .B f
  | .toneC f => encodeTone c .C f
  | .noise f => encodeNoise c f
  | .envp fe => encodeEnvp c fe
  | .envsOneShotSaw => encodeShape c .oneShotSaw
  | .envsRampDown => encodeShape c .rampDown
  | .envsRampUp => encodeShape c .rampUp
  | .envsRepeatedSaw => encodeShape c .repeatedSaw
  | .envsRepeatedTriangle => encodeShape c .repeatedTriangle
  | .ampA m l => encodeAmp c .A m l
  | .ampB m l => encodeAmp c .B m l
  | .ampC m l => encodeAmp c .C m l
  | .mix f => encodeMixer c f

/-- The packets a command writes, none where it faults or is refused (R173). -/
def commandPackets (c : Cfg) (i : Instr) : List Packet :=
  match encodeCommand c i with
  | .payload p => p.packets
  | .divideByZero _ => []
  | .refused _ => []

/-- The actions of `Transfer(b)` (R142). -/
def transferActions (b : Byte) : List Event := [.setLE .low, .send b, .setLE .high]

/-- The document's eight steps of `SeqWrite(a, v)` (R143, C7), each as its primitive actions. -/
def eightSteps (p : Packet) : List (List Event) :=
  [[.setBus .idle], [.setBus .latchAddress], transferActions (addressByte p.addr), [.setBus .idle], [.setBus .idle],
   transferActions p.val, [.setBus .writeData], [.setBus .idle]]

/-- `Trace(SeqWrite(a, v))`, the list of R145. -/
def transactionTrace (p : Packet) : List Event :=
  [.setBus .idle, .setBus .latchAddress,
   .setLE .low, .send (addressByte p.addr), .setLE .high,
   .setBus .idle, .setBus .idle,
   .setLE .low, .send p.val, .setLE .high,
   .setBus .writeData, .setBus .idle]

/-- `Trace(cmd)` (R173): the transactions of its packets in order; empty where it faults or is refused. -/
def commandTrace (c : Cfg) (i : Instr) : List Event := (commandPackets c i).flatMap transactionTrace

/-- The chip after the complete transactions of some packets, in order (R58, R62). -/
def writeAll (m : Memory) (ps : List Packet) : Memory := ps.foldl (fun m p => m.write p.addr.toNat p.val) m

end Sys2Proof.Machine
end

