-- ==== Sys2Proof/Safety.lean ====
section
/-! DEFINITION. The terms the statements are made in: runs, command boundaries, what a transaction has established at
each micro-step, and the invariant of the machine. -/

namespace Sys2Proof.Machine

/-- `k` steps of the machine, stopping at the first fault or refusal. -/
def runFor (k : Nat) (s : State) : Host.Outcome State Fault Refusal := Host.Core.run Sys2Proof.core k s

/-- The levels `(dir, c1, c2, le)` before micro-step `u<seq>`: those R144's table shows after the one before it, and
Idle with `le` High before u0. While `Send` is awaited they are the same. -/
def linesBefore (seq : Fin 12) : Level × Level × Level × Level :=
  match seq with
  | 0 => (.low, .low, .high, .high)
  | 1 => (.low, .low, .high, .high)
  | 2 => (.high, .high, .high, .high)
  | 3 => (.high, .high, .high, .low)
  | 4 => (.high, .high, .high, .low)
  | 5 => (.high, .high, .high, .high)
  | 6 => (.low, .low, .high, .high)
  | 7 => (.low, .low, .high, .high)
  | 8 => (.low, .low, .high, .low)
  | 9 => (.low, .low, .high, .low)
  | 10 => (.low, .low, .high, .high)
  | 11 => (.high, .low, .high, .high)

/-- The levels `(dir, c1, c2, le)` after micro-step `u<seq>`: the columns of R144's table. -/
def linesAfter (seq : Fin 12) : Level × Level × Level × Level :=
  match seq with
  | 0 => (.low, .low, .high, .high)
  | 1 => (.high, .high, .high, .high)
  | 2 => (.high, .high, .high, .low)
  | 3 => (.high, .high, .high, .low)
  | 4 => (.high, .high, .high, .high)
  | 5 => (.low, .low, .high, .high)
  | 6 => (.low, .low, .high, .high)
  | 7 => (.low, .low, .high, .low)
  | 8 => (.low, .low, .high, .low)
  | 9 => (.low, .low, .high, .high)
  | 10 => (.high, .low, .high, .high)
  | 11 => (.low, .low, .high, .high)

/-- The four lines (R21, R24). -/
def State.lines (s : State) : Level × Level × Level × Level := (s.dir, s.c1, s.c2, s.le)

/-- `ch` targets one of three parallel register sets; a command's packets, by register name, are those of R171. -/
def payloadRegisters : Instr → List RegName
  | .toneA _ => [.toneFine .A, .toneCoarse .A]
  | .toneB _ => [.toneFine .B, .toneCoarse .B]
  | .toneC _ => [.toneFine .C, .toneCoarse .C]
  | .noise _ => [.noisePeriod]
  | .envp _ => [.envCoarse, .envFine]
  | .envsOneShotSaw => [.envShape]
  | .envsRampDown => [.envShape]
  | .envsRampUp => [.envShape]
  | .envsRepeatedSaw => [.envShape]
  | .envsRepeatedTriangle => [.envShape]
  | .ampA _ _ => [.amp .A]
  | .ampB _ _ => [.amp .B]
  | .ampC _ _ => [.amp .C]
  | .mix _ => [.mixer]

/-- What the transaction of packet `p` has put on the port, in the shift register, on the bus and into the chip by the
time `u<seq>` is next (R33, R58, R144, R155). -/
structure TransactionData (p : Packet) (s : State) : Prop where
  sendsAddress : s.seq = 3 → s.txwait = true → s.txByte = addressByte p.addr
  shiftedAddress : s.seq = 4 → s.shiftReg = addressByte p.addr
  presentsAddress : s.seq = 5 ∨ s.seq = 6 ∨ s.seq = 7 → s.busByte = addressByte p.addr
  latchedAddress : 6 ≤ s.seq.val → s.addrLatch = p.addr
  sendsValue : s.seq = 8 → s.txwait = true → s.txByte = p.val
  shiftedValue : s.seq = 9 → s.shiftReg = p.val
  presentsValue : s.seq = 10 ∨ s.seq = 11 → s.busByte = p.val
  storedValue : s.seq = 11 → s.chip.read p.addr.toNat = some p.val

/-- The invariant of the machine: it holds at reset and every step keeps it. -/
structure MachineInv (s : State) : Prop where
  /-- The configuration meets its premises (R7, R76, R191). -/
  config : s.cfg.wf
  /-- The chip's memory is in its canonical form (R50). -/
  chipForm : s.chip.wf
  /-- The chip's latch holds a RegisterAddress (R50, R58). -/
  latchRange : s.addrLatch.toNat < chipCells
  /-- `ready` is set when no command is in progress and no fault stands (R28). -/
  readyIff : s.ready = true ↔ s.queue = [] ∧ s.fault = false
  /-- The queue holds 0, 1 or 2 packets (R27). -/
  queueLength : s.queue.length ≤ 2
  /-- Every packet names one of the 14 registers (R50). -/
  queueRange : ∀ p ∈ s.queue, p.addr.toNat < chipCells
  /-- A faulted block has an empty queue (R194). -/
  faultQuiet : s.fault = true → s.queue = []
  /-- The fault is recorded with the command that raised it (R193). -/
  faultRecord : s.faultBy.isSome = s.fault
  /-- `txwait` is set only inside a transaction, after u3 or u8 (R25, R144). -/
  waitPlace : s.txwait = true → s.queue ≠ [] ∧ (s.seq = 3 ∨ s.seq = 8)
  /-- Between commands `seq` is 0 (R26). -/
  seqQuiet : s.queue = [] → s.seq = 0
  /-- The lines are those of R144's table, and Idle with `le` High between commands (R23, R24, R175). -/
  linesOk : s.lines = linesBefore s.seq
  /-- The head packet's transaction has established what it should have (R155). -/
  transaction : ∀ p, s.queue.head? = some p → TransactionData p s

/-- A command boundary at which the environment asks for nothing but commands: R175, R177. -/
structure Quiet (s : State) : Prop where
  ready : s.ready = true
  noFault : s.fault = false
  noWait : s.txwait = false
  noReset : s.rstReq = false
  noQueue : s.queue = []
  atStart : s.seq = 0
  idle : s.lines = linesBefore 0

/-- The end of a run over a finite list of commands (R177): the last command has completed and no more is presented. A
state with `fault` set, or waiting for a `TxDone`, is no end of a run. -/
structure RunEnded (s : State) : Prop where
  quiet : Quiet s
  nothingPresented : s.cmdIn = []

/-- The environment answers every `Send` to come, sooner or later (R148, the fairness assumption). -/
abbrev State.fair (s : State) : Prop := none ∉ s.txPlan

/-- The environment answers every `Send` at the next step. -/
abbrev State.prompt (s : State) : Prop := s.txPlan = []

/-- The sequencer is about to perform micro-step `u<seq>` for a head packet (the premises of R144's step relation), and
no reset is applied. -/
structure Busy (p : Packet) (rest : List Packet) (s : State) : Prop where
  queue : s.queue = p :: rest
  notReady : s.ready = false
  noFault : s.fault = false
  noWait : s.txwait = false
  noReset : s.rstReq = false

/-- AYW waits inside `Send` (R148), and no reset is applied. -/
structure Waiting (s : State) : Prop where
  wait : s.txwait = true
  noFault : s.fault = false
  noReset : s.rstReq = false

/-- Two states agree on AYW's own state, the environment's inputs and the constants: they may differ only in the chip's
cells, its address latch, what the latch and shift register hold, and the model's free-value counter (R32, R55). -/
def sameBlock (s t : State) : Prop :=
  t = { s with chip := t.chip, addrLatch := t.addrLatch, busByte := t.busByte, shiftReg := t.shiftReg,
               freeCtr := t.freeCtr }

/-- A positive finite binary32 pattern (R103): `fe[31] == 0`, `fe[30:23] != 0xFF`, `fe[30:0] != 0`. -/
abbrev positiveFinite (fe : BitVec 32) : Prop :=
  fe.extractLsb 31 31 = 0 ∧ fe.extractLsb 30 23 ≠ 0xFF ∧ fe.extractLsb 30 0 ≠ 0

/-- A zero pattern, of either sign (R103): `fe[30:0] == 0`. -/
abbrev zeroPattern (fe : BitVec 32) : Prop := fe.extractLsb 30 0 = 0

/-- The allowed transitions of the control FSM, or no change (R147). -/
def busMoves : List (BusState × BusState) :=
  [(.idle, .idle), (.idle, .latchAddress), (.latchAddress, .idle), (.idle, .writeData), (.writeData, .idle)]

/-- The value a binary32 pattern denotes, by the standard's formula (R73, G6), for a finite non-negative pattern. -/
def f32Value (fe : BitVec 32) : ℚ :=
  if f32Exp fe = 0 then (f32Frac fe : ℚ) * 2 ^ (-149 : ℤ)
  else (1 + (f32Frac fe : ℚ) / 2 ^ 23) * 2 ^ ((f32Exp fe : ℤ) - 127)

/-- `q = CLOCK_HZ / (256 * val(fe))`, the exact positive rational of R104. -/
def envQuotient (clk : Nat) (fe : BitVec 32) : ℚ := (clk : ℚ) / (256 * f32Value fe)

end Sys2Proof.Machine
end

