-- ==== Sys2Proof/Certificates/Slice0/Obligations.lean ====
section
/-! DEFINITION. The statements about the model, for the provers. `OBLIGATIONS.json` lists them with the rules of spec/
they come from. `s.ready = true` and the like are hypotheses on the state; every constant of the configuration is a
field of the state, so a statement about every state is one about every `CLOCK_HZ` and every `RegAddr`. -/

open Sys2Proof Sys2Proof.Machine

/-! ## Reset -/

/-- R36: what reset leaves of AYW's own state, and that the chip's registers hold unspecified bytes: each named register
holds the free byte of its cell, of which nothing is known (U9; that it is `Config.powerOnCell` is the model's form, log
7). The values of `addrLatch`, `busByte`, `txByte`, `shiftReg`, `cfg` are the model's (log 3, log 8), not claimed. -/
def Obligations.ResetLeavesIdleAndReady : Prop :=
  State.reset.triple = (.low, .low, .high) ∧ State.reset.busState = some .idle ∧ State.reset.le = .high ∧
  State.reset.seq = 0 ∧ State.reset.txwait = false ∧ State.reset.queue = [] ∧
  State.reset.ready = true ∧ State.reset.fault = false ∧
  ∀ r, State.reset.reg r = some (Config.powerOnCell (State.reset.cfg.regAddr.get r).toNat)

/-- R220: the reset action puts AYW's own state at the values of R36, from any state, a faulted one too. The other
clauses are the model's: that the fault's record goes with its flag (log 11); and (all log 13, unsafe) that reset is a
request which the step takes, that it records no event, that the chip's address latch, the bus byte, the shift register
and the cells keep their values, even from LatchAddress, where R220 also calls them unspecified after reset, and that the
register of a transaction in progress holds a free byte (U15). `txByte` is not claimed. -/
def Obligations.ResetActionRestoresTheBlock : Prop :=
  ∀ s : State, s.rstReq = true → ∃ t, step s = .next t ∧
    t.lines = (.low, .low, .high, .high) ∧ t.seq = 0 ∧ t.txwait = false ∧ t.queue = [] ∧ t.ready = true ∧
    t.fault = false ∧ t.faultBy = none ∧ t.rstReq = false ∧
    t.addrLatch = s.addrLatch ∧ t.shiftReg = s.shiftReg ∧ t.cfg = s.cfg ∧ t.trace = s.trace ∧ t.cmdIn = s.cmdIn ∧
    (s.le = .high → t.busByte = s.busByte) ∧
    (s.queue = [] ∨ s.seq = 0 → t.chip = s.chip) ∧
    (∀ p rest, s.queue = p :: rest → s.seq ≠ 0 → ∃ v, t.chip.read p.addr.toNat = some v) ∧
    ∀ p rest a, s.queue = p :: rest → a ≠ p.addr.toNat → t.chip.read a = s.chip.read a

/-- The invariant holds at reset. Two of its clauses hold there by the model's choices: `latchRange` because the address
latch, which R36 leaves unspecified, is 0 (log 8), and `config` because of the constants `State.reset` carries (log 3). -/
def Obligations.ResetMeetsInvariant : Prop := MachineInv State.reset

/-! ## The invariant -/

/-- Every step that answers a next state keeps the invariant: lines as R144's table has them, the flag `ready` as R28,
the queue as R27, the chip's memory canonical, and the data of the transaction in progress where R155 says. -/
def Obligations.StepKeepsInvariant : Prop :=
  ∀ s t : State, MachineInv s → step s = .next t → MachineInv t

/-- R193, R194: the only fault a state of the invariant stops with is the division fault of a block whose `fault` flag
is set, with the TONE command's channel on record. -/
def Obligations.OnlyTheDivisionFaultStops : Prop :=
  ∀ (s : State) (f : Fault), MachineInv s → step s = .fault f →
    s.fault = true ∧ s.rstReq = false ∧ ∃ ch, s.faultBy = some ch ∧ f = .divideByZero (some ch)

/-- R7, R29: no step changes the constants. -/
def Obligations.StepKeepsConfiguration : Prop :=
  ∀ s t : State, step s = .next t → t.cfg = s.cfg

/-! ## Encodings -/

/-- Decoding an encoded well-formed command gives it back (R70 to R75), for all 14 rows. -/
def Obligations.DecodeOfEncode : Prop :=
  ∀ i : Instr, i.wf → decode (encode i) = .ok i

/-- A word that decodes is the encoding of its command, which is well formed: each word has one meaning. -/
def Obligations.EncodeOfDecode : Prop :=
  ∀ (cw : CmdWord) (i : Instr), decode cw = .ok i → i.wf ∧ encode i = cw

/-- R74: exactly these words are reserved, and a ready block to which one is presented refuses. -/
def Obligations.ReservedWordsAreRefused : Prop :=
  (∀ cw : CmdWord, (∃ e, decode cw = .error e) ↔
    (6 ≤ (cw.extractLsb 36 34).toNat ∨
     cw.extractLsb 33 32 = 3 ∨
     (cw.extractLsb 33 32 ≠ 0 ∧ (cw.extractLsb 36 34).toNat ∈ [1, 2, 3, 5]) ∨
     (cw.extractLsb 36 34 = 3 ∧ 5 ≤ (cw.extractLsb 2 0).toNat) ∨
     (cw.extractLsb 36 34 = 3 ∧ cw.extractLsb 31 3 ≠ 0) ∨
     (cw.extractLsb 36 34 = 4 ∧ cw.extractLsb 31 9 ≠ 0) ∨
     (cw.extractLsb 36 34 = 5 ∧ cw.extractLsb 31 8 ≠ 0))) ∧
  ∀ (s : State) (cw : CmdWord) (rest : List CmdWord) (e : Reserved),
    s.rstReq = false → s.fault = false → s.txwait = false → s.ready = true → s.cmdIn = cw :: rest →
    decode cw = .error e → step s = .refused (.reservedWord e)

/-- The opcode table's rows: a word that decodes selects the row of its command and no other, and a word that selects
no row is exactly a reserved word (30_encoding.md, the note after R75). -/
def Obligations.OneTableRowPerCommand : Prop :=
  (∀ (cw : CmdWord) (i : Instr), decode cw = .ok i → opcodeTable.filter (selectsRow cw) = [i.row]) ∧
  ∀ (cw : CmdWord) (e : Reserved), decode cw = .error e → opcodeTable.filter (selectsRow cw) = []

/-- Words written out from R70 to R73 and R79, one or more for each command kind. -/
def Obligations.SampleWordsDecode : Prop :=
  decode 0b000_01_00000000000000000000000110111000#37 = .ok (.toneB 440) ∧
  decode 0b001_00_00000000000000000000111110100000#37 = .ok (.noise 4000) ∧
  decode 0b010_00_00111111000000000000000000000000#37 = .ok (.envp 0x3F000000) ∧
  decode 0b011_00_00000000000000000000000000000100#37 = .ok .envsRepeatedTriangle ∧
  decode 0b100_10_00000000000000000000000111111111#37 = .ok (.ampC .variable 0xFF) ∧
  decode 0b101_00_00000000000000000000000011000000#37 = .ok (.mix 0xC0) ∧
  decode 0b110_00_00000000000000000000000000000000#37 = .error .op

/-! ## The step and the decoded command -/

/-- R174: a ready block runs the command it decodes from the port: the step is `exec` of it, with the word taken. -/
def Obligations.StepRunsTheDecodedCommand : Prop :=
  ∀ (s : State) (cw : CmdWord) (rest : List CmdWord) (i : Instr),
    s.rstReq = false → s.fault = false → s.txwait = false → s.ready = true → s.cmdIn = cw :: rest →
    decode cw = .ok i → step s = exec i { s with cmdIn := rest }

/-- R221: "after reset the block waits for the first command": with none presented nothing changes (log 2). -/
def Obligations.ReadyBlockWaitsForACommand : Prop :=
  ∀ s : State, s.rstReq = false → s.fault = false → s.txwait = false → s.ready = true → s.cmdIn = [] →
    step s = .next s

/-! ## The commands: what accepting each does (R174), as an equation of the whole next state -/

/-- R101, R194: TONE.A, TONE.B and TONE.C on a ready block. For `freq > 0` the queue gets the fine packet, then the
coarse packet, of `period = CLOCK_HZ / (16 * freq)`; for `freq = 0` the division fault is taken, with no event and no
line changed. Everything not named is unchanged, the chip and the trace included. -/
def Obligations.ToneLoadsFineThenCoarse : Prop :=
  ∀ (ch : Channel) (freq : Nat) (s : State), s.ready = true →
    (0 < freq → exec (Instr.tone ch freq) s = .next { s with
      queue := [⟨s.cfg.regAddr.get (.toneFine ch), BitVec.ofNat 8 (s.cfg.clockHz.toNat / (16 * freq) % 256)⟩,
                ⟨s.cfg.regAddr.get (.toneCoarse ch), BitVec.ofNat 8 (s.cfg.clockHz.toNat / (16 * freq) / 256)⟩]
      seq := 0, ready := false }) ∧
    (freq = 0 → exec (Instr.tone ch freq) s = .next { s with fault := true, ready := false, faultBy := some ch })

/-- R102: NOISE on a ready block: one packet, `(CLOCK_HZ / (16 * freq)) & 0x1F`, or 0 at `freq = 0`. -/
def Obligations.NoiseLoadsOneMaskedPacket : Prop :=
  ∀ (freq : Nat) (s : State), s.ready = true →
    exec (.noise freq) s = .next { s with
      queue := [⟨s.cfg.regAddr.get .noisePeriod,
        if freq = 0 then 0 else BitVec.ofNat 8 (s.cfg.clockHz.toNat / (16 * freq) % 32)⟩]
      seq := 0, ready := false }

/-- R103, R104 under `ENV_ARITH = exact`: ENVP on a ready block with a positive finite operand: the queue gets the
coarse packet, then the fine packet, of `floor(CLOCK_HZ / (256 * val(fe)))`. -/
def Obligations.EnvpLoadsCoarseThenFine : Prop :=
  ∀ (fe : BitVec 32) (s : State), s.ready = true → s.cfg.envArith = .exact → positiveFinite fe →
    exec (.envp fe) s = .next { s with
      queue := [⟨s.cfg.regAddr.get .envCoarse, BitVec.ofNat 8 (⌊envQuotient s.cfg.clockHz.toNat fe⌋₊ / 256)⟩,
                ⟨s.cfg.regAddr.get .envFine, BitVec.ofNat 8 (⌊envQuotient s.cfg.clockHz.toNat fe⌋₊ % 256)⟩]
      seq := 0, ready := false }

/-- R103, R104 under any `ENV_ARITH`: the payload is that of `EnvDiv`, and where `ieee32` defines nothing the command
is refused. -/
def Obligations.EnvpUsesTheSelectedDivider : Prop :=
  ∀ (fe : BitVec 32) (s : State), s.ready = true → positiveFinite fe →
    (∀ d, envDiv s.cfg.envArith s.cfg.clockHz.toNat fe = some d →
      exec (.envp fe) s = .next { s with
        queue := [⟨s.cfg.regAddr.get .envCoarse, coarseByte d⟩, ⟨s.cfg.regAddr.get .envFine, fineByte d⟩]
        seq := 0, ready := false }) ∧
    (envDiv s.cfg.envArith s.cfg.clockHz.toNat fe = none → exec (.envp fe) s = .refused (.envpQuotient fe))

/-- R107: ENVP at either zero completes, raises no fault, and loads the two packets of the open `ENV_ZERO_DIV`, coarse
first, whatever that parameter is. -/
def Obligations.EnvpAtZeroCompletes : Prop :=
  ∀ (fe : BitVec 32) (s : State), s.ready = true → zeroPattern fe →
    exec (.envp fe) s = .next { s with
      queue := [⟨s.cfg.regAddr.get .envCoarse, coarseByte Config.envZeroDiv.toNat⟩,
                ⟨s.cfg.regAddr.get .envFine, fineByte Config.envZeroDiv.toNat⟩]
      seq := 0, ready := false }

/-- R108: ENVP with any other operand (negative, infinite, NaN) is refused. -/
def Obligations.EnvpRefusesOtherOperands : Prop :=
  ∀ (fe : BitVec 32) (s : State), s.ready = true → ¬ zeroPattern fe → ¬ positiveFinite fe →
    exec (.envp fe) s = .refused (.envpOperand fe)

/-- R104, "What all three share": for `CLOCK_HZ < 2^24` and `q < 2^24` every evaluation gives `floor(q)` or
`floor(q) + 1`, and `floor(q)` whenever `q` is an integer. -/
def Obligations.DividersAgreeWithinOne : Prop :=
  ∀ (a : EnvArith) (clk : Nat) (fe : BitVec 32), 0 < clk → clk < 2 ^ 24 → positiveFinite fe →
    envQuotient clk fe < 2 ^ 24 →
    ∃ d, envDiv a clk fe = some d ∧
      (d = ⌊envQuotient clk fe⌋₊ ∨ d = ⌊envQuotient clk fe⌋₊ + 1) ∧
      ((⌊envQuotient clk fe⌋₊ : ℚ) = envQuotient clk fe → d = ⌊envQuotient clk fe⌋₊)

/-- R104: only `ieee32` can leave ENVP without a result: `exact` and `ieee64` define a divider for every positive finite
operand and every 32-bit clock. -/
def Obligations.OnlyBinary32LeavesNoDivider : Prop :=
  ∀ (a : EnvArith) (clk : Nat) (fe : BitVec 32), clk < 2 ^ 32 → positiveFinite fe →
    envDiv a clk fe = none → a = .ieee32

/-- R120: ENVS.OneShotSaw, ENVS.RampDown, ENVS.RampUp, ENVS.RepeatedSaw and ENVS.RepeatedTriangle on a ready block: one
packet with the table's value. -/
def Obligations.EnvsLoadsTheTableValue : Prop :=
  ∀ s : State, s.ready = true →
    exec .envsOneShotSaw s = .next { s with
      queue := [⟨s.cfg.regAddr.get .envShape, 0x04⟩], seq := 0, ready := false } ∧
    exec .envsRampDown s = .next { s with
      queue := [⟨s.cfg.regAddr.get .envShape, 0x00⟩], seq := 0, ready := false } ∧
    exec .envsRampUp s = .next { s with
      queue := [⟨s.cfg.regAddr.get .envShape, 0x0D⟩], seq := 0, ready := false } ∧
    exec .envsRepeatedSaw s = .next { s with
      queue := [⟨s.cfg.regAddr.get .envShape, 0x08⟩], seq := 0, ready := false } ∧
    exec .envsRepeatedTriangle s = .next { s with
      queue := [⟨s.cfg.regAddr.get .envShape, 0x0A⟩], seq := 0, ready := false }

/-- R79: each table value is its set of flags, with hold in bit 0, alternate in bit 1, attack in bit 2, continue in bit
3 and the rest zero; the five values are different. -/
def Obligations.ShapeValuesAreTheirFlags : Prop :=
  (∀ sh : ShapeType, shapeTable sh = (shapeFlags sh).byte ∧
    (shapeTable sh).getLsbD 0 = (shapeFlags sh).hold ∧ (shapeTable sh).getLsbD 1 = (shapeFlags sh).alternate ∧
    (shapeTable sh).getLsbD 2 = (shapeFlags sh).attack ∧ (shapeTable sh).getLsbD 3 = (shapeFlags sh).continue_ ∧
    (shapeTable sh).toNat < 16) ∧
  ∀ sh sh' : ShapeType, shapeTable sh = shapeTable sh' → sh = sh'

/-- R121: AMP.A, AMP.B and AMP.C on a ready block: one packet, the masked level in Fixed mode, 0x10 in Variable mode
whatever the level. -/
def Obligations.AmpLoadsLevelOrEnvelopeBit : Prop :=
  ∀ (ch : Channel) (level : Byte) (s : State), s.ready = true →
    exec (Instr.amp ch .fixed level) s = .next { s with
      queue := [⟨s.cfg.regAddr.get (.amp ch), level &&& 0x0F⟩], seq := 0, ready := false } ∧
    exec (Instr.amp ch .variable level) s = .next { s with
      queue := [⟨s.cfg.regAddr.get (.amp ch), 0x10⟩], seq := 0, ready := false }

/-- R122: MIX on a ready block: one packet, `flags & 0x3F`. -/
def Obligations.MixLoadsMaskedFlags : Prop :=
  ∀ (flags : Byte) (s : State), s.ready = true →
    exec (.mix flags) s = .next { s with
      queue := [⟨s.cfg.regAddr.get .mixer, flags &&& 0x3F⟩], seq := 0, ready := false }

/-- R78, R227: of the eight named mixer flags, the one packet that MIX queues for the mixer register has the six channel
flags as the operand has them and the two input flags clear. The positions of bits 1 to 5 are the spec's presumption
(log 17). -/
def Obligations.MixerKeepsSixFlagsClearsTwo : Prop :=
  ∀ (flags : Byte) (s : State), s.ready = true → ∃ t p, exec (.mix flags) s = .next t ∧ t.queue = [p] ∧
    p.addr = s.cfg.regAddr.get .mixer ∧
    ∀ f : MixerFlag, p.val.getLsbD f.bit =
      match f with
      | .tone _ => flags.getLsbD f.bit
      | .noise _ => flags.getLsbD f.bit
      | .inputA => false
      | .inputB => false

/-- R106: fine is `p[7:0]` and coarse is `p[15:8]`; bits 16 and above are lost. -/
def Obligations.ByteSplitKeepsLowSixteenBits : Prop :=
  ∀ p : Nat, (fineByte p).toNat = p % 256 ∧ (coarseByte p).toNat = p / 256 % 256 ∧
    (coarseByte p ++ fineByte p) = BitVec.ofNat 16 p

/-- R50, R80, R171: the packets of every command go to the registers of R171's table, in its order, one or two of them,
and every address is that of one of the 14 cells. -/
def Obligations.PayloadsFollowTheDispatchTable : Prop :=
  ∀ (c : Cfg) (i : Instr) (pl : WritePayload), c.regAddr.wf → encodeCommand c i = .payload pl →
    pl.packets.map Packet.addr = (payloadRegisters i).map c.regAddr.get ∧
    ∀ p ∈ pl.packets, p.addr.toNat < 14

/-! ## All commands: frame, outcomes, independence -/

/-- R176: accepting any command changes at most the queue, the micro-step index and the two flags with the fault's
record; no line, no event, no cell of the chip, no constant. -/
def Obligations.AcceptingChangesNoLineOrCell : Prop :=
  ∀ (i : Instr) (s t : State), exec i s = .next t →
    t = { s with queue := t.queue, seq := t.seq, ready := t.ready, fault := t.fault, faultBy := t.faultBy } ∧
    t.ready = false ∧ (∀ a, t.chip.read a = s.chip.read a)

/-- R197: on a ready block every command is refused, takes the division fault, or loads the sequencer with its payload,
exactly one of the three, and `exec` never answers a stop by fault. -/
def Obligations.CommandOutcomesAreExclusive : Prop :=
  ∀ (i : Instr) (s : State), s.ready = true → s.fault = false →
    (∃ r, encodeCommand s.cfg i = .refused r ∧ exec i s = .refused r ∧ ∃ fe, i = .envp fe) ∨
    (∃ ch t, i = Instr.tone ch 0 ∧ exec i s = .next t ∧ t.fault = true ∧ t.faultBy = some ch ∧ t.queue = s.queue) ∨
    (∃ pl t, encodeCommand s.cfg i = .payload pl ∧ exec i s = .next t ∧ t.fault = false ∧ t.queue = pl.packets ∧
      i ≠ Instr.tone .A 0 ∧ i ≠ Instr.tone .B 0 ∧ i ≠ Instr.tone .C 0)

/-- R174: a command presented to `exec` while `ready` is clear has no meaning. -/
def Obligations.BusyBlockRefusesCommands : Prop :=
  ∀ (i : Instr) (s : State), s.ready = false → exec i s = .refused .notReady

/-- R30: what a command does depends on its operands and the constants only: from two ready states with the same
constants and nothing queued it has the same payload, fault or refusal. -/
def Obligations.CommandsIgnoreHistory : Prop :=
  ∀ (i : Instr) (s s' : State), s.ready = true → s'.ready = true → s.cfg = s'.cfg → s.queue = [] → s'.queue = [] →
    (∀ r, exec i s = .refused r → exec i s' = .refused r) ∧
    (∀ t, exec i s = .next t → ∃ t', exec i s' = .next t' ∧ t'.queue = t.queue ∧
      (s.fault = s'.fault → t'.fault = t.fault) ∧ (s.faultBy = s'.faultBy → t'.faultBy = t.faultBy))

/-! ## The fault -/

/-- R194: a faulted block has no enabled step; only reset clears the fault. -/
def Obligations.FaultIsTerminalUntilReset : Prop :=
  ∀ s : State, s.fault = true →
    (s.rstReq = false → step s = .fault (.divideByZero s.faultBy)) ∧
    (s.rstReq = true → ∃ t, step s = .next t ∧ t.fault = false ∧ t.ready = true)

/-- R193, R194: a step that raises the fault accepts a TONE command with `freq = 0`, records its channel, and changes no
line, no cell and no event. -/
def Obligations.OnlyToneAtZeroRaisesTheFault : Prop :=
  ∀ s t : State, step s = .next t → s.fault = false → t.fault = true →
    ∃ cw rest ch, s.cmdIn = cw :: rest ∧ decode cw = .ok (Instr.tone ch 0) ∧
      t = { s with cmdIn := rest, fault := true, ready := false, faultBy := some ch }

/-! ## The sequencer -/

/-- R141: entering a bus state drives the three lines to its triple, records the event, and touches neither `le` nor the
transfer port. -/
def Obligations.EnterDrivesTheTriple : Prop :=
  ∀ (b : BusState) (s : State), s.addrLatch.toNat < 14 → ∃ t, enter b s = .next t ∧
    (t.dir, t.c1, t.c2) = (match b with
      | .idle => (Level.low, Level.low, Level.high)
      | .latchAddress => (Level.high, Level.high, Level.high)
      | .writeData => (Level.high, Level.low, Level.high)) ∧
    t.trace = s.trace ++ [.setBus b] ∧ t.le = s.le ∧ t.txwait = s.txwait ∧ t.txByte = s.txByte ∧
    t.ready = s.ready ∧ t.fault = s.fault ∧ t.queue = s.queue ∧ t.seq = s.seq

/-- R58: the effect of a bus-state event on the chip. Leaving LatchAddress for Idle the chip takes the address, if it is
one; entering WriteData it stores the bus byte in that cell and no other; every other event changes neither. That leaving
LatchAddress with a byte above 0x0D keeps the address latch is the model's choice (log 14): R58 puts that case outside
the spec, and no run reaches it. -/
def Obligations.ChipFollowsTheBusEvents : Prop :=
  (∀ (b : BusState) (s t : State), enter b s = .next t → b ≠ .writeData →
    t.chip = s.chip ∧
    (b = .idle → s.busState = some .latchAddress → s.busByte.toNat ≤ 0x0D → t.addrLatch = s.busByte.extractLsb' 0 4) ∧
    (¬ (b = .idle ∧ s.busState = some .latchAddress ∧ s.busByte.toNat ≤ 0x0D) → t.addrLatch = s.addrLatch)) ∧
  (∀ s t : State, enter .writeData s = .next t →
    t.addrLatch = s.addrLatch ∧ ∀ a, t.chip.read a = if a = s.addrLatch.toNat then some s.busByte else s.chip.read a) ∧
  (∀ (l : Level) (s : State), (driveLE l s).chip = s.chip ∧ (driveLE l s).addrLatch = s.addrLatch) ∧
  (∀ (b : Byte) (s : State), (startSend b s).chip = s.chip ∧ (startSend b s).addrLatch = s.addrLatch)

/-- R144: one micro-step of a busy sequencer is the row of `seq` for the head packet: its event, the lines after it, the
byte on the bus where the table gives one, and the advance of `seq`; after `Send` AYW waits, after u11 the packet
leaves the queue and the command is complete when none is left. -/
def Obligations.MicroStepFollowsTheTable : Prop :=
  ∀ (s : State) (p : Packet) (rest : List Packet), MachineInv s → Busy p rest s → ∃ t, step s = .next t ∧
    t.lines = linesAfter s.seq ∧
    t.trace = s.trace ++ [microAction p s.seq] ∧
    (s.seq = 0 ∨ s.seq = 1 → t.busByte = s.busByte) ∧
    (s.seq = 4 ∨ s.seq = 5 ∨ s.seq = 6 → t.busByte = p.addr.setWidth 8) ∧
    (s.seq = 9 ∨ s.seq = 10 ∨ s.seq = 11 → t.busByte = p.val) ∧
    (s.seq = 3 → t.txwait = true ∧ t.txByte = p.addr.setWidth 8 ∧ t.seq = 3) ∧
    (s.seq = 8 → t.txwait = true ∧ t.txByte = p.val ∧ t.seq = 8) ∧
    (s.seq ≠ 3 → s.seq ≠ 8 → t.txwait = false ∧ t.seq = s.seq + 1) ∧
    (s.seq ≠ 11 → t.queue = s.queue ∧ t.ready = false) ∧
    (s.seq = 11 → t.queue = rest ∧ (t.ready = true ↔ rest = [])) ∧
    t.fault = false ∧ t.cmdIn = s.cmdIn

/-- R57, R58: the chip changes only at u10, and there only in the cell the head packet names, which gets its value. -/
def Obligations.OnlyWriteDataChangesTheChip : Prop :=
  ∀ s t : State, MachineInv s → s.rstReq = false → step s = .next t →
    (∀ p rest, s.queue = p :: rest → s.seq = 10 →
      ∀ a, t.chip.read a = if a = p.addr.toNat then some p.val else s.chip.read a) ∧
    (s.queue = [] ∨ s.seq ≠ 10 → t.chip = s.chip)

/-- R147: the transitions the FSM makes. A step that enters a bus state makes one of the five; every other step leaves
the bus state. -/
def Obligations.BusStateMovesAreTheFive : Prop :=
  ∀ s t : State, MachineInv s → s.rstReq = false → step s = .next t → ∃ b c, s.busState = some b ∧ t.busState = some c ∧
    ((t.trace = s.trace ++ [.setBus c] ∧ (b, c) ∈ busMoves) ∨
     (b = c ∧ ∀ d, t.trace ≠ s.trace ++ [.setBus d]))

/-- R23: in every run after reset, whatever commands are presented, however the transfers are answered and whatever the
constants are, control-2 is High and the lines show one of the three bus states. -/
def Obligations.LinesAlwaysShowABusState : Prop :=
  ∀ (c : Cfg) (cmds : List CmdWord) (plan : List (Option Nat)) (k : Nat) (t : State),
    runFor k { State.reset with cfg := c, cmdIn := cmds, txPlan := plan } = .next t →
    t.c2 = .high ∧ t.triple ∈ [BusState.idle.levels, BusState.latchAddress.levels, BusState.writeData.levels] ∧
    ¬ (t.dir = .low ∧ t.c1 = .high)

/-- R152: the actions, the bus states and the `le` levels do not depend on the packet: two busy blocks at the same
micro-step and with the same lines end with the same lines, and each records one event, the same but for the byte of a
`Send`. -/
def Obligations.SequenceIgnoresTheData : Prop :=
  ∀ (s s' t t' : State) (p p' : Packet) (rest rest' : List Packet), Busy p rest s → Busy p' rest' s' →
    s.seq = s'.seq → s.lines = s'.lines → step s = .next t → step s' = .next t' →
    t.lines = t'.lines ∧ t.seq = t'.seq ∧ t.txwait = t'.txwait ∧
    ∃ e e', t.trace = s.trace ++ [e] ∧ t'.trace = s'.trace ++ [e'] ∧
      (e = e' ∨ ∃ b b', e = .send b ∧ e' = .send b')

/-- R26: apart from reset, `seq` holds or goes to the next of the 12 micro-steps (0 after 11), and it holds while the
environment has not answered. -/
def Obligations.SeqNeverJumps : Prop :=
  ∀ s t : State, MachineInv s → s.rstReq = false → step s = .next t →
    (t.seq = s.seq ∨ t.seq = s.seq + 1) ∧ (t.txwait = true → t.seq = s.seq)

/-- R12, R62: a step records at most one event, and only a busy block that is not waiting records one. That a reset, which
moves the lines, records none is the model's choice (log 13): R12 has no event for it. -/
def Obligations.StepsRecordAtMostOneEvent : Prop :=
  ∀ s t : State, step s = .next t →
    t.trace = s.trace ∨
    (∃ p rest, Busy p rest s ∧ t.trace = s.trace ++ [microAction p s.seq])

/-- R173, R177: apart from reset, `ready` comes back only with u11 of the last packet; then the bus state is Idle, `le`
is High, and the latch presents that packet's value. -/
def Obligations.ReadyReturnsOnlyAtTheLastStep : Prop :=
  ∀ s t : State, MachineInv s → s.rstReq = false → s.ready = false → step s = .next t → t.ready = true →
    ∃ p, s.queue = [p] ∧ s.seq = 11 ∧ s.txwait = false ∧
      t.queue = [] ∧ t.txwait = false ∧ t.busState = some .idle ∧ t.le = .high ∧ t.busByte = p.val

/-! ## Waiting for the transfer primitive -/

/-- R148: the environment's `TxDone`, after any number of waiting steps, clears `txwait` and lets `seq` advance; no line
changes and no event is recorded meanwhile. -/
def Obligations.TxDoneEndsTheWait : Prop :=
  ∀ (s : State) (n : Nat) (plan : List (Option Nat)), Waiting s → s.txPlan = some n :: plan →
    ∃ t, runFor (n + 1) s = .next t ∧ t.txwait = false ∧ t.seq = s.seq + 1 ∧ t.shiftReg = s.txByte ∧
      t.txPlan = plan ∧ t.lines = s.lines ∧ t.trace = s.trace ∧ t.queue = s.queue ∧ t.chip = s.chip ∧
      t.addrLatch = s.addrLatch

/-- R198: a transfer that is never reported leaves the block waiting for ever, with the lines, the micro-step and the
flags as they are: a hang, not a fault. Only the byte on the bus is open. -/
def Obligations.StalledTransferHangs : Prop :=
  ∀ (s : State) (plan : List (Option Nat)) (k : Nat), Waiting s → s.txPlan = none :: plan →
    ∃ t, runFor k s = .next t ∧ t = { s with busByte := t.busByte, freeCtr := t.freeCtr }

/-! ## Transactions, commands, runs -/

/-- R143, R145, R58: from u0, whatever levels the lines had, one transaction of a packet `(a, v)` records exactly the
twelve events of R145 and has the effect `R[a] <- v` and no other on the chip, when every `Send` is answered at the
next step. -/
def Obligations.TransactionWritesOneRegister : Prop :=
  ∀ (s : State) (p : Packet) (rest : List Packet), Busy p rest s → s.seq = 0 → s.prompt → p.addr.toNat < 14 →
    ∃ t, runFor 14 s = .next t ∧
      t.trace = s.trace ++ [.setBus .idle, .setBus .latchAddress, .setLE .low, .send (p.addr.setWidth 8),
        .setLE .high, .setBus .idle, .setBus .idle, .setLE .low, .send p.val, .setLE .high, .setBus .writeData,
        .setBus .idle] ∧
      (∀ a, t.chip.read a = if a = p.addr.toNat then some p.val else s.chip.read a) ∧
      t.queue = rest ∧ t.seq = 0 ∧ (t.ready = true ↔ rest = []) ∧ t.lines = (.low, .low, .high, .high) ∧
      t.busByte = p.val ∧ t.addrLatch = p.addr ∧ t.cmdIn = s.cmdIn ∧ t.cfg = s.cfg

/-- R148, R154: the same with any environment that answers every `Send` sooner or later: the transaction still ends,
with the same twelve events and the same effect. -/
def Obligations.FairTransactionsEnd : Prop :=
  ∀ (s : State) (p : Packet) (rest : List Packet), Busy p rest s → s.seq = 0 → s.fair → p.addr.toNat < 14 →
    ∃ k t, runFor k s = .next t ∧ t.trace = s.trace ++ transactionTrace p ∧
      (∀ a, t.chip.read a = if a = p.addr.toNat then some p.val else s.chip.read a) ∧
      t.queue = rest ∧ t.seq = 0 ∧ (t.ready = true ↔ rest = []) ∧ t.fair ∧ t.cmdIn = s.cmdIn ∧ t.cfg = s.cfg

/-- R148, R177: under the fairness assumption a command in progress completes, from any state of the invariant inside
it. -/
def Obligations.FairCommandsComplete : Prop :=
  ∀ s : State, MachineInv s → s.rstReq = false → s.fault = false → s.fair →
    ∃ k t, runFor k s = .next t ∧ t.ready = true ∧ t.queue = [] ∧ t.txwait = false ∧ t.cmdIn = s.cmdIn

/-- R171, R173, R177: a command presented to a quiet block runs to completion: accepted in one step, then 14 steps for
each packet of its payload; its trace is the transactions' in payload order, the chip gets the payload's writes, and
the block is quiet again. It holds for every command that does not fault and is not refused. -/
def Obligations.CommandRunsToCompletion : Prop :=
  ∀ (s : State) (i : Instr) (rest : List CmdWord) (pl : WritePayload), Quiet s → s.prompt → s.cfg.wf → i.wf →
    s.cmdIn = encode i :: rest → encodeCommand s.cfg i = .payload pl →
    ∃ t, runFor (1 + 14 * pl.packets.length) s = .next t ∧ Quiet t ∧
      t.trace = s.trace ++ pl.packets.flatMap transactionTrace ∧ t.chip = writeAll s.chip pl.packets ∧
      (∀ p, pl.packets.getLast? = some p → t.busByte = p.val ∧ t.addrLatch = p.addr) ∧
      t.cmdIn = rest ∧ t.cfg = s.cfg

/-- R175: a sequence of commands, none faulting and none refused, runs to the end of the run (R177) with the
concatenation of their traces, and the chip gets their writes in the order presented. -/
def Obligations.CommandsRunBackToBack : Prop :=
  ∀ (is : List Instr) (s : State), Quiet s → s.prompt → s.cfg.wf → s.cmdIn = is.map encode →
    (∀ i ∈ is, i.wf ∧ ∃ pl, encodeCommand s.cfg i = .payload pl) →
    ∃ k t, runFor k s = .next t ∧ RunEnded t ∧
      t.trace = s.trace ++ is.flatMap (commandTrace s.cfg) ∧
      t.chip = writeAll s.chip (is.flatMap (commandPackets s.cfg))

/-- R57: between the two transactions of a TONE command the chip holds the new fine byte and the old coarse byte; after
the second it holds both new bytes. -/
def Obligations.ToneHasAMixedIntermediateState : Prop :=
  ∀ (s : State) (ch : Channel) (freq : Nat) (rest : List CmdWord), Quiet s → s.prompt → s.cfg.wf →
    0 < freq → freq < 2 ^ 32 → s.cmdIn = encode (Instr.tone ch freq) :: rest →
    ∃ t u, runFor 15 s = .next t ∧ runFor 14 t = .next u ∧
      t.reg (.toneFine ch) = some (fineByte (s.cfg.clockHz.toNat / (16 * freq))) ∧
      t.reg (.toneCoarse ch) = s.reg (.toneCoarse ch) ∧ t.ready = false ∧
      u.reg (.toneFine ch) = some (fineByte (s.cfg.clockHz.toNat / (16 * freq))) ∧
      u.reg (.toneCoarse ch) = some (coarseByte (s.cfg.clockHz.toNat / (16 * freq))) ∧ u.ready = true

/-- R57, R107: between the two transactions of an ENVP command the chip holds the new coarse byte and the old fine byte,
for every operand that completes: the positive finite ones, and the two zeros with the open `ENV_ZERO_DIV`. -/
def Obligations.EnvpHasAMixedIntermediateState : Prop :=
  ∀ (s : State) (fe : BitVec 32) (d : Nat) (rest : List CmdWord), Quiet s → s.prompt → s.cfg.wf →
    (positiveFinite fe ∧ envDiv s.cfg.envArith s.cfg.clockHz.toNat fe = some d ∨
      zeroPattern fe ∧ d = Config.envZeroDiv.toNat) →
    s.cmdIn = encode (.envp fe) :: rest →
    ∃ t u, runFor 15 s = .next t ∧ runFor 14 t = .next u ∧
      t.reg .envCoarse = some (coarseByte d) ∧ t.reg .envFine = s.reg .envFine ∧ t.ready = false ∧
      u.reg .envCoarse = some (coarseByte d) ∧ u.reg .envFine = some (fineByte d) ∧ u.ready = true

/-! ## Isolation -/

/-- R32, R55: AYW has no path by which anything of the chip or the latch can reach it: two states of the invariant that
differ only there take steps that differ only there. -/
def Obligations.TheChipNeverReachesTheBlock : Prop :=
  ∀ s t s' : State, MachineInv s → MachineInv t → sameBlock s t → step s = .next s' → ∃ t', step t = .next t' ∧ sameBlock s' t'

/-! ## The register file -/

/-- R31, R50: in every state of the invariant the chip has exactly the 14 cells 0x0 to 0xD, each with a byte, and each of
the 14 named registers is one of them. -/
def Obligations.EveryRegisterHoldsAByte : Prop :=
  ∀ s : State, MachineInv s → (∀ a, (∃ v, s.chip.read a = some v) ↔ a < 14) ∧ ∀ r, ∃ v, s.reg r = some v
end

