-- ==== Sys2Proof/Laws/Memory.lean ====
section
/-! SUPPORT. The laws of the chip's register file as a memory: read after write, the cells a write leaves alone, and
that every operation keeps the canonical form. -/

namespace Sys2Proof.Machine

/-- A cell reads as the byte last written to it (R58). -/
@[simp] theorem Memory.read_write_same (m : Memory) (a : Nat) (v : Byte) : (m.write a v).read a = some v := by
  induction m with
  | nil => simp [Memory.write, Memory.read]
  | cons c m ih =>
    obtain ⟨b, w⟩ := c
    unfold Memory.write
    split
    · simp [Memory.read]
    · split
      · simp [Memory.read]
      · rename_i h; simp [Memory.read, h, ih]

/-- A write changes no other cell (R58). -/
theorem Memory.read_write_other (m : Memory) (a b : Nat) (v : Byte) (h : b ≠ a) :
    (m.write a v).read b = m.read b := by
  induction m with
  | nil => simp [Memory.write, Memory.read, h]
  | cons c m ih =>
    obtain ⟨d, w⟩ := c
    unfold Memory.write
    split
    · simp [Memory.read, h]
    · split
      · rename_i hd; subst hd; simp [Memory.read, h]
      · simp [Memory.read, ih]

/-- A write to a listed address lists the same addresses. -/
theorem Memory.write_addresses {m : Memory} (hm : m.Pairwise fun x y => x.1 < y.1) {a : Nat}
    (ha : a ∈ m.map Prod.fst) (v : Byte) : (m.write a v).map Prod.fst = m.map Prod.fst := by
  induction m with
  | nil => cases ha
  | cons c m ih =>
    obtain ⟨b, w⟩ := c
    rw [List.pairwise_cons] at hm
    rcases List.mem_cons.1 ha with rfl | ha
    · simp [Memory.write]
    · obtain ⟨c, hc, rfl⟩ := List.mem_map.1 ha
      have hb : b < c.1 := hm.1 c hc
      simp [Memory.write, Nat.not_lt.2 hb.le, hb.ne', ih hm.2 ha]

/-- A canonical memory's addresses rise. -/
theorem Memory.wf.rising {m : Memory} (hm : m.wf) : m.Pairwise fun x y => x.1 < y.1 := by
  have h : (m.map Prod.fst).Pairwise (· < ·) := hm ▸ List.pairwise_lt_range
  exact List.pairwise_map.1 h

/-- A write to a register keeps the canonical form. -/
theorem Memory.write_wf {m : Memory} (hm : m.wf) {a : Nat} (ha : a < chipCells) (v : Byte) : (m.write a v).wf := by
  show _ = _
  rw [Memory.write_addresses hm.rising (hm ▸ List.mem_range.2 ha), hm]

/-- The cells before any write are in the canonical form. -/
theorem Memory.powerOn_wf : Memory.powerOn.wf := rfl

/-- An address has a byte exactly when it is listed. -/
theorem Memory.exists_read_iff_mem (m : Memory) (a : Nat) : (∃ v, m.read a = some v) ↔ a ∈ m.map Prod.fst := by
  induction m with
  | nil => simp [Memory.read]
  | cons c m ih =>
    obtain ⟨b, w⟩ := c
    by_cases h : a = b
    · simp [Memory.read, h]
    · simp only [Memory.read, h, if_false, ih, List.map_cons, List.mem_cons, false_or]

/-- In the canonical form the addresses below 14 have a byte, and no other has (R50). -/
theorem Memory.exists_read_iff {m : Memory} (hm : m.wf) (a : Nat) : (∃ v, m.read a = some v) ↔ a < chipCells := by
  rw [Memory.exists_read_iff_mem, hm, List.mem_range]

/-- A run of writes keeps the canonical form. -/
theorem writeAll_wf {m : Memory} (hm : m.wf) {ps : List Packet} (hp : ∀ p ∈ ps, p.addr.toNat < chipCells) :
    (writeAll m ps).wf := by
  induction ps generalizing m with
  | nil => exact hm
  | cons p ps ih =>
    exact ih (Memory.write_wf hm (hp p (List.mem_cons_self ..)) _) fun q hq => hp q (List.mem_cons_of_mem _ hq)

/-- A run of writes changes no cell that none of its packets names (R58). -/
theorem writeAll_read_other (m : Memory) (ps : List Packet) (a : Nat) (h : ∀ p ∈ ps, a ≠ p.addr.toNat) :
    (writeAll m ps).read a = m.read a := by
  induction ps generalizing m with
  | nil => rfl
  | cons p ps ih =>
    show (writeAll (m.write p.addr.toNat p.val) ps).read a = _
    rw [ih _ fun q hq => h q (List.mem_cons_of_mem _ hq),
      Memory.read_write_other _ _ _ _ (h p (List.mem_cons_self ..))]

end Sys2Proof.Machine
end

