-- ==== Sys2Proof/Laws/State.lean ====
section
/-! SUPPORT. One lemma per field per named update of the state, so that no later proof unfolds a record update. -/

namespace Sys2Proof.Machine

/-! ## setBusy (R174) -/

@[simp] theorem State.setBusy_dir (s : State) : (s.setBusy).dir = s.dir := rfl
@[simp] theorem State.setBusy_c1 (s : State) : (s.setBusy).c1 = s.c1 := rfl
@[simp] theorem State.setBusy_c2 (s : State) : (s.setBusy).c2 = s.c2 := rfl
@[simp] theorem State.setBusy_le (s : State) : (s.setBusy).le = s.le := rfl
@[simp] theorem State.setBusy_seq (s : State) : (s.setBusy).seq = s.seq := rfl
@[simp] theorem State.setBusy_txwait (s : State) : (s.setBusy).txwait = s.txwait := rfl
@[simp] theorem State.setBusy_txByte (s : State) : (s.setBusy).txByte = s.txByte := rfl
@[simp] theorem State.setBusy_queue (s : State) : (s.setBusy).queue = s.queue := rfl
@[simp] theorem State.setBusy_ready (s : State) : (s.setBusy).ready = false := rfl
@[simp] theorem State.setBusy_fault (s : State) : (s.setBusy).fault = s.fault := rfl
@[simp] theorem State.setBusy_faultBy (s : State) : (s.setBusy).faultBy = s.faultBy := rfl
@[simp] theorem State.setBusy_chip (s : State) : (s.setBusy).chip = s.chip := rfl
@[simp] theorem State.setBusy_addrLatch (s : State) : (s.setBusy).addrLatch = s.addrLatch := rfl
@[simp] theorem State.setBusy_busByte (s : State) : (s.setBusy).busByte = s.busByte := rfl
@[simp] theorem State.setBusy_shiftReg (s : State) : (s.setBusy).shiftReg = s.shiftReg := rfl
@[simp] theorem State.setBusy_cmdIn (s : State) : (s.setBusy).cmdIn = s.cmdIn := rfl
@[simp] theorem State.setBusy_txPlan (s : State) : (s.setBusy).txPlan = s.txPlan := rfl
@[simp] theorem State.setBusy_rstReq (s : State) : (s.setBusy).rstReq = s.rstReq := rfl
@[simp] theorem State.setBusy_cfg (s : State) : (s.setBusy).cfg = s.cfg := rfl
@[simp] theorem State.setBusy_freeCtr (s : State) : (s.setBusy).freeCtr = s.freeCtr := rfl
@[simp] theorem State.setBusy_trace (s : State) : (s.setBusy).trace = s.trace := rfl

/-! ## setReady (R173) -/

@[simp] theorem State.setReady_dir (s : State) : (s.setReady).dir = s.dir := rfl
@[simp] theorem State.setReady_c1 (s : State) : (s.setReady).c1 = s.c1 := rfl
@[simp] theorem State.setReady_c2 (s : State) : (s.setReady).c2 = s.c2 := rfl
@[simp] theorem State.setReady_le (s : State) : (s.setReady).le = s.le := rfl
@[simp] theorem State.setReady_seq (s : State) : (s.setReady).seq = s.seq := rfl
@[simp] theorem State.setReady_txwait (s : State) : (s.setReady).txwait = s.txwait := rfl
@[simp] theorem State.setReady_txByte (s : State) : (s.setReady).txByte = s.txByte := rfl
@[simp] theorem State.setReady_queue (s : State) : (s.setReady).queue = s.queue := rfl
@[simp] theorem State.setReady_ready (s : State) : (s.setReady).ready = true := rfl
@[simp] theorem State.setReady_fault (s : State) : (s.setReady).fault = s.fault := rfl
@[simp] theorem State.setReady_faultBy (s : State) : (s.setReady).faultBy = s.faultBy := rfl
@[simp] theorem State.setReady_chip (s : State) : (s.setReady).chip = s.chip := rfl
@[simp] theorem State.setReady_addrLatch (s : State) : (s.setReady).addrLatch = s.addrLatch := rfl
@[simp] theorem State.setReady_busByte (s : State) : (s.setReady).busByte = s.busByte := rfl
@[simp] theorem State.setReady_shiftReg (s : State) : (s.setReady).shiftReg = s.shiftReg := rfl
@[simp] theorem State.setReady_cmdIn (s : State) : (s.setReady).cmdIn = s.cmdIn := rfl
@[simp] theorem State.setReady_txPlan (s : State) : (s.setReady).txPlan = s.txPlan := rfl
@[simp] theorem State.setReady_rstReq (s : State) : (s.setReady).rstReq = s.rstReq := rfl
@[simp] theorem State.setReady_cfg (s : State) : (s.setReady).cfg = s.cfg := rfl
@[simp] theorem State.setReady_freeCtr (s : State) : (s.setReady).freeCtr = s.freeCtr := rfl
@[simp] theorem State.setReady_trace (s : State) : (s.setReady).trace = s.trace := rfl

/-! ## setFault (R194) -/

@[simp] theorem State.setFault_dir (s : State) (ch : Channel) : (s.setFault ch).dir = s.dir := rfl
@[simp] theorem State.setFault_c1 (s : State) (ch : Channel) : (s.setFault ch).c1 = s.c1 := rfl
@[simp] theorem State.setFault_c2 (s : State) (ch : Channel) : (s.setFault ch).c2 = s.c2 := rfl
@[simp] theorem State.setFault_le (s : State) (ch : Channel) : (s.setFault ch).le = s.le := rfl
@[simp] theorem State.setFault_seq (s : State) (ch : Channel) : (s.setFault ch).seq = s.seq := rfl
@[simp] theorem State.setFault_txwait (s : State) (ch : Channel) : (s.setFault ch).txwait = s.txwait := rfl
@[simp] theorem State.setFault_txByte (s : State) (ch : Channel) : (s.setFault ch).txByte = s.txByte := rfl
@[simp] theorem State.setFault_queue (s : State) (ch : Channel) : (s.setFault ch).queue = s.queue := rfl
@[simp] theorem State.setFault_ready (s : State) (ch : Channel) : (s.setFault ch).ready = false := rfl
@[simp] theorem State.setFault_fault (s : State) (ch : Channel) : (s.setFault ch).fault = true := rfl
@[simp] theorem State.setFault_faultBy (s : State) (ch : Channel) : (s.setFault ch).faultBy = some ch := rfl
@[simp] theorem State.setFault_chip (s : State) (ch : Channel) : (s.setFault ch).chip = s.chip := rfl
@[simp] theorem State.setFault_addrLatch (s : State) (ch : Channel) : (s.setFault ch).addrLatch = s.addrLatch := rfl
@[simp] theorem State.setFault_busByte (s : State) (ch : Channel) : (s.setFault ch).busByte = s.busByte := rfl
@[simp] theorem State.setFault_shiftReg (s : State) (ch : Channel) : (s.setFault ch).shiftReg = s.shiftReg := rfl
@[simp] theorem State.setFault_cmdIn (s : State) (ch : Channel) : (s.setFault ch).cmdIn = s.cmdIn := rfl
@[simp] theorem State.setFault_txPlan (s : State) (ch : Channel) : (s.setFault ch).txPlan = s.txPlan := rfl
@[simp] theorem State.setFault_rstReq (s : State) (ch : Channel) : (s.setFault ch).rstReq = s.rstReq := rfl
@[simp] theorem State.setFault_cfg (s : State) (ch : Channel) : (s.setFault ch).cfg = s.cfg := rfl
@[simp] theorem State.setFault_freeCtr (s : State) (ch : Channel) : (s.setFault ch).freeCtr = s.freeCtr := rfl
@[simp] theorem State.setFault_trace (s : State) (ch : Channel) : (s.setFault ch).trace = s.trace := rfl

/-! ## clearFlags (R220) -/

@[simp] theorem State.clearFlags_dir (s : State) : (s.clearFlags).dir = s.dir := rfl
@[simp] theorem State.clearFlags_c1 (s : State) : (s.clearFlags).c1 = s.c1 := rfl
@[simp] theorem State.clearFlags_c2 (s : State) : (s.clearFlags).c2 = s.c2 := rfl
@[simp] theorem State.clearFlags_le (s : State) : (s.clearFlags).le = s.le := rfl
@[simp] theorem State.clearFlags_seq (s : State) : (s.clearFlags).seq = s.seq := rfl
@[simp] theorem State.clearFlags_txwait (s : State) : (s.clearFlags).txwait = s.txwait := rfl
@[simp] theorem State.clearFlags_txByte (s : State) : (s.clearFlags).txByte = s.txByte := rfl
@[simp] theorem State.clearFlags_queue (s : State) : (s.clearFlags).queue = s.queue := rfl
@[simp] theorem State.clearFlags_ready (s : State) : (s.clearFlags).ready = true := rfl
@[simp] theorem State.clearFlags_fault (s : State) : (s.clearFlags).fault = false := rfl
@[simp] theorem State.clearFlags_faultBy (s : State) : (s.clearFlags).faultBy = none := rfl
@[simp] theorem State.clearFlags_chip (s : State) : (s.clearFlags).chip = s.chip := rfl
@[simp] theorem State.clearFlags_addrLatch (s : State) : (s.clearFlags).addrLatch = s.addrLatch := rfl
@[simp] theorem State.clearFlags_busByte (s : State) : (s.clearFlags).busByte = s.busByte := rfl
@[simp] theorem State.clearFlags_shiftReg (s : State) : (s.clearFlags).shiftReg = s.shiftReg := rfl
@[simp] theorem State.clearFlags_cmdIn (s : State) : (s.clearFlags).cmdIn = s.cmdIn := rfl
@[simp] theorem State.clearFlags_txPlan (s : State) : (s.clearFlags).txPlan = s.txPlan := rfl
@[simp] theorem State.clearFlags_rstReq (s : State) : (s.clearFlags).rstReq = s.rstReq := rfl
@[simp] theorem State.clearFlags_cfg (s : State) : (s.clearFlags).cfg = s.cfg := rfl
@[simp] theorem State.clearFlags_freeCtr (s : State) : (s.clearFlags).freeCtr = s.freeCtr := rfl
@[simp] theorem State.clearFlags_trace (s : State) : (s.clearFlags).trace = s.trace := rfl

/-! ## emit (R12) -/

@[simp] theorem State.emit_dir (s : State) (e : Event) : (s.emit e).dir = s.dir := rfl
@[simp] theorem State.emit_c1 (s : State) (e : Event) : (s.emit e).c1 = s.c1 := rfl
@[simp] theorem State.emit_c2 (s : State) (e : Event) : (s.emit e).c2 = s.c2 := rfl
@[simp] theorem State.emit_le (s : State) (e : Event) : (s.emit e).le = s.le := rfl
@[simp] theorem State.emit_seq (s : State) (e : Event) : (s.emit e).seq = s.seq := rfl
@[simp] theorem State.emit_txwait (s : State) (e : Event) : (s.emit e).txwait = s.txwait := rfl
@[simp] theorem State.emit_txByte (s : State) (e : Event) : (s.emit e).txByte = s.txByte := rfl
@[simp] theorem State.emit_queue (s : State) (e : Event) : (s.emit e).queue = s.queue := rfl
@[simp] theorem State.emit_ready (s : State) (e : Event) : (s.emit e).ready = s.ready := rfl
@[simp] theorem State.emit_fault (s : State) (e : Event) : (s.emit e).fault = s.fault := rfl
@[simp] theorem State.emit_faultBy (s : State) (e : Event) : (s.emit e).faultBy = s.faultBy := rfl
@[simp] theorem State.emit_chip (s : State) (e : Event) : (s.emit e).chip = s.chip := rfl
@[simp] theorem State.emit_addrLatch (s : State) (e : Event) : (s.emit e).addrLatch = s.addrLatch := rfl
@[simp] theorem State.emit_busByte (s : State) (e : Event) : (s.emit e).busByte = s.busByte := rfl
@[simp] theorem State.emit_shiftReg (s : State) (e : Event) : (s.emit e).shiftReg = s.shiftReg := rfl
@[simp] theorem State.emit_cmdIn (s : State) (e : Event) : (s.emit e).cmdIn = s.cmdIn := rfl
@[simp] theorem State.emit_txPlan (s : State) (e : Event) : (s.emit e).txPlan = s.txPlan := rfl
@[simp] theorem State.emit_rstReq (s : State) (e : Event) : (s.emit e).rstReq = s.rstReq := rfl
@[simp] theorem State.emit_cfg (s : State) (e : Event) : (s.emit e).cfg = s.cfg := rfl
@[simp] theorem State.emit_freeCtr (s : State) (e : Event) : (s.emit e).freeCtr = s.freeCtr := rfl
@[simp] theorem State.emit_trace (s : State) (e : Event) : (s.emit e).trace = s.trace ++ [e] := rfl

/-! ## driveBus (R141) -/

@[simp] theorem State.driveBus_dir (s : State) (b : BusState) : (s.driveBus b).dir = b.levels.1 := rfl
@[simp] theorem State.driveBus_c1 (s : State) (b : BusState) : (s.driveBus b).c1 = b.levels.2.1 := rfl
@[simp] theorem State.driveBus_c2 (s : State) (b : BusState) : (s.driveBus b).c2 = b.levels.2.2 := rfl
@[simp] theorem State.driveBus_le (s : State) (b : BusState) : (s.driveBus b).le = s.le := rfl
@[simp] theorem State.driveBus_seq (s : State) (b : BusState) : (s.driveBus b).seq = s.seq := rfl
@[simp] theorem State.driveBus_txwait (s : State) (b : BusState) : (s.driveBus b).txwait = s.txwait := rfl
@[simp] theorem State.driveBus_txByte (s : State) (b : BusState) : (s.driveBus b).txByte = s.txByte := rfl
@[simp] theorem State.driveBus_queue (s : State) (b : BusState) : (s.driveBus b).queue = s.queue := rfl
@[simp] theorem State.driveBus_ready (s : State) (b : BusState) : (s.driveBus b).ready = s.ready := rfl
@[simp] theorem State.driveBus_fault (s : State) (b : BusState) : (s.driveBus b).fault = s.fault := rfl
@[simp] theorem State.driveBus_faultBy (s : State) (b : BusState) : (s.driveBus b).faultBy = s.faultBy := rfl
@[simp] theorem State.driveBus_chip (s : State) (b : BusState) : (s.driveBus b).chip = s.chip := rfl
@[simp] theorem State.driveBus_addrLatch (s : State) (b : BusState) : (s.driveBus b).addrLatch = s.addrLatch := rfl
@[simp] theorem State.driveBus_busByte (s : State) (b : BusState) : (s.driveBus b).busByte = s.busByte := rfl
@[simp] theorem State.driveBus_shiftReg (s : State) (b : BusState) : (s.driveBus b).shiftReg = s.shiftReg := rfl
@[simp] theorem State.driveBus_cmdIn (s : State) (b : BusState) : (s.driveBus b).cmdIn = s.cmdIn := rfl
@[simp] theorem State.driveBus_txPlan (s : State) (b : BusState) : (s.driveBus b).txPlan = s.txPlan := rfl
@[simp] theorem State.driveBus_rstReq (s : State) (b : BusState) : (s.driveBus b).rstReq = s.rstReq := rfl
@[simp] theorem State.driveBus_cfg (s : State) (b : BusState) : (s.driveBus b).cfg = s.cfg := rfl
@[simp] theorem State.driveBus_freeCtr (s : State) (b : BusState) : (s.driveBus b).freeCtr = s.freeCtr := rfl
@[simp] theorem State.driveBus_trace (s : State) (b : BusState) : (s.driveBus b).trace = s.trace := rfl

/-! ## floatBus (R33) -/

@[simp] theorem State.floatBus_dir (s : State) : (s.floatBus).dir = s.dir := by
  unfold State.floatBus; split <;> rfl
@[simp] theorem State.floatBus_c1 (s : State) : (s.floatBus).c1 = s.c1 := by
  unfold State.floatBus; split <;> rfl
@[simp] theorem State.floatBus_c2 (s : State) : (s.floatBus).c2 = s.c2 := by
  unfold State.floatBus; split <;> rfl
@[simp] theorem State.floatBus_le (s : State) : (s.floatBus).le = s.le := by
  unfold State.floatBus; split <;> rfl
@[simp] theorem State.floatBus_seq (s : State) : (s.floatBus).seq = s.seq := by
  unfold State.floatBus; split <;> rfl
@[simp] theorem State.floatBus_txwait (s : State) : (s.floatBus).txwait = s.txwait := by
  unfold State.floatBus; split <;> rfl
@[simp] theorem State.floatBus_txByte (s : State) : (s.floatBus).txByte = s.txByte := by
  unfold State.floatBus; split <;> rfl
@[simp] theorem State.floatBus_queue (s : State) : (s.floatBus).queue = s.queue := by
  unfold State.floatBus; split <;> rfl
@[simp] theorem State.floatBus_ready (s : State) : (s.floatBus).ready = s.ready := by
  unfold State.floatBus; split <;> rfl
@[simp] theorem State.floatBus_fault (s : State) : (s.floatBus).fault = s.fault := by
  unfold State.floatBus; split <;> rfl
@[simp] theorem State.floatBus_faultBy (s : State) : (s.floatBus).faultBy = s.faultBy := by
  unfold State.floatBus; split <;> rfl
@[simp] theorem State.floatBus_chip (s : State) : (s.floatBus).chip = s.chip := by
  unfold State.floatBus; split <;> rfl
@[simp] theorem State.floatBus_addrLatch (s : State) : (s.floatBus).addrLatch = s.addrLatch := by
  unfold State.floatBus; split <;> rfl
@[simp] theorem State.floatBus_shiftReg (s : State) : (s.floatBus).shiftReg = s.shiftReg := by
  unfold State.floatBus; split <;> rfl
@[simp] theorem State.floatBus_cmdIn (s : State) : (s.floatBus).cmdIn = s.cmdIn := by
  unfold State.floatBus; split <;> rfl
@[simp] theorem State.floatBus_txPlan (s : State) : (s.floatBus).txPlan = s.txPlan := by
  unfold State.floatBus; split <;> rfl
@[simp] theorem State.floatBus_rstReq (s : State) : (s.floatBus).rstReq = s.rstReq := by
  unfold State.floatBus; split <;> rfl
@[simp] theorem State.floatBus_cfg (s : State) : (s.floatBus).cfg = s.cfg := by
  unfold State.floatBus; split <;> rfl
@[simp] theorem State.floatBus_trace (s : State) : (s.floatBus).trace = s.trace := by
  unfold State.floatBus; split <;> rfl

/-! ## freeAbandonedCell (R220, U15) -/

@[simp] theorem State.freeAbandonedCell_dir (s : State) : (s.freeAbandonedCell).dir = s.dir := by
  unfold State.freeAbandonedCell; split <;> [rfl; (split <;> rfl)]
@[simp] theorem State.freeAbandonedCell_c1 (s : State) : (s.freeAbandonedCell).c1 = s.c1 := by
  unfold State.freeAbandonedCell; split <;> [rfl; (split <;> rfl)]
@[simp] theorem State.freeAbandonedCell_c2 (s : State) : (s.freeAbandonedCell).c2 = s.c2 := by
  unfold State.freeAbandonedCell; split <;> [rfl; (split <;> rfl)]
@[simp] theorem State.freeAbandonedCell_le (s : State) : (s.freeAbandonedCell).le = s.le := by
  unfold State.freeAbandonedCell; split <;> [rfl; (split <;> rfl)]
@[simp] theorem State.freeAbandonedCell_seq (s : State) : (s.freeAbandonedCell).seq = s.seq := by
  unfold State.freeAbandonedCell; split <;> [rfl; (split <;> rfl)]
@[simp] theorem State.freeAbandonedCell_txwait (s : State) : (s.freeAbandonedCell).txwait = s.txwait := by
  unfold State.freeAbandonedCell; split <;> [rfl; (split <;> rfl)]
@[simp] theorem State.freeAbandonedCell_txByte (s : State) : (s.freeAbandonedCell).txByte = s.txByte := by
  unfold State.freeAbandonedCell; split <;> [rfl; (split <;> rfl)]
@[simp] theorem State.freeAbandonedCell_queue (s : State) : (s.freeAbandonedCell).queue = s.queue := by
  unfold State.freeAbandonedCell; split <;> [rfl; (split <;> rfl)]
@[simp] theorem State.freeAbandonedCell_ready (s : State) : (s.freeAbandonedCell).ready = s.ready := by
  unfold State.freeAbandonedCell; split <;> [rfl; (split <;> rfl)]
@[simp] theorem State.freeAbandonedCell_fault (s : State) : (s.freeAbandonedCell).fault = s.fault := by
  unfold State.freeAbandonedCell; split <;> [rfl; (split <;> rfl)]
@[simp] theorem State.freeAbandonedCell_faultBy (s : State) : (s.freeAbandonedCell).faultBy = s.faultBy := by
  unfold State.freeAbandonedCell; split <;> [rfl; (split <;> rfl)]
@[simp] theorem State.freeAbandonedCell_addrLatch (s : State) : (s.freeAbandonedCell).addrLatch = s.addrLatch := by
  unfold State.freeAbandonedCell; split <;> [rfl; (split <;> rfl)]
@[simp] theorem State.freeAbandonedCell_busByte (s : State) : (s.freeAbandonedCell).busByte = s.busByte := by
  unfold State.freeAbandonedCell; split <;> [rfl; (split <;> rfl)]
@[simp] theorem State.freeAbandonedCell_shiftReg (s : State) : (s.freeAbandonedCell).shiftReg = s.shiftReg := by
  unfold State.freeAbandonedCell; split <;> [rfl; (split <;> rfl)]
@[simp] theorem State.freeAbandonedCell_cmdIn (s : State) : (s.freeAbandonedCell).cmdIn = s.cmdIn := by
  unfold State.freeAbandonedCell; split <;> [rfl; (split <;> rfl)]
@[simp] theorem State.freeAbandonedCell_txPlan (s : State) : (s.freeAbandonedCell).txPlan = s.txPlan := by
  unfold State.freeAbandonedCell; split <;> [rfl; (split <;> rfl)]
@[simp] theorem State.freeAbandonedCell_rstReq (s : State) : (s.freeAbandonedCell).rstReq = s.rstReq := by
  unfold State.freeAbandonedCell; split <;> [rfl; (split <;> rfl)]
@[simp] theorem State.freeAbandonedCell_cfg (s : State) : (s.freeAbandonedCell).cfg = s.cfg := by
  unfold State.freeAbandonedCell; split <;> [rfl; (split <;> rfl)]
@[simp] theorem State.freeAbandonedCell_trace (s : State) : (s.freeAbandonedCell).trace = s.trace := by
  unfold State.freeAbandonedCell; split <;> [rfl; (split <;> rfl)]

/-- Outside a transaction a reset leaves every cell (R220). -/
theorem State.freeAbandonedCell_of_quiet (s : State) (h : s.queue = [] ∨ s.seq = 0) : s.freeAbandonedCell = s := by
  unfold State.freeAbandonedCell
  split
  · rfl
  · rename_i hq
    rw [if_pos (h.resolve_left (by simp [hq]))]

/-- Inside a transaction it leaves a free byte in the cell the head packet names (U15). -/
theorem State.freeAbandonedCell_chip (s : State) {p : Packet} {rest : List Packet} (hq : s.queue = p :: rest)
    (hs : s.seq ≠ 0) :
    s.freeAbandonedCell.chip = s.chip.write p.addr.toNat (Config.freeByte s.freeCtr) := by
  unfold State.freeAbandonedCell
  rw [hq]
  simp only [hs, if_false]

/-! ## captureAddress (R58) -/

@[simp] theorem State.captureAddress_dir (s : State) : (s.captureAddress).dir = s.dir := by
  unfold State.captureAddress; split <;> rfl
@[simp] theorem State.captureAddress_c1 (s : State) : (s.captureAddress).c1 = s.c1 := by
  unfold State.captureAddress; split <;> rfl
@[simp] theorem State.captureAddress_c2 (s : State) : (s.captureAddress).c2 = s.c2 := by
  unfold State.captureAddress; split <;> rfl
@[simp] theorem State.captureAddress_le (s : State) : (s.captureAddress).le = s.le := by
  unfold State.captureAddress; split <;> rfl
@[simp] theorem State.captureAddress_seq (s : State) : (s.captureAddress).seq = s.seq := by
  unfold State.captureAddress; split <;> rfl
@[simp] theorem State.captureAddress_txwait (s : State) : (s.captureAddress).txwait = s.txwait := by
  unfold State.captureAddress; split <;> rfl
@[simp] theorem State.captureAddress_txByte (s : State) : (s.captureAddress).txByte = s.txByte := by
  unfold State.captureAddress; split <;> rfl
@[simp] theorem State.captureAddress_queue (s : State) : (s.captureAddress).queue = s.queue := by
  unfold State.captureAddress; split <;> rfl
@[simp] theorem State.captureAddress_ready (s : State) : (s.captureAddress).ready = s.ready := by
  unfold State.captureAddress; split <;> rfl
@[simp] theorem State.captureAddress_fault (s : State) : (s.captureAddress).fault = s.fault := by
  unfold State.captureAddress; split <;> rfl
@[simp] theorem State.captureAddress_faultBy (s : State) : (s.captureAddress).faultBy = s.faultBy := by
  unfold State.captureAddress; split <;> rfl
@[simp] theorem State.captureAddress_chip (s : State) : (s.captureAddress).chip = s.chip := by
  unfold State.captureAddress; split <;> rfl
@[simp] theorem State.captureAddress_busByte (s : State) : (s.captureAddress).busByte = s.busByte := by
  unfold State.captureAddress; split <;> rfl
@[simp] theorem State.captureAddress_shiftReg (s : State) : (s.captureAddress).shiftReg = s.shiftReg := by
  unfold State.captureAddress; split <;> rfl
@[simp] theorem State.captureAddress_cmdIn (s : State) : (s.captureAddress).cmdIn = s.cmdIn := by
  unfold State.captureAddress; split <;> rfl
@[simp] theorem State.captureAddress_txPlan (s : State) : (s.captureAddress).txPlan = s.txPlan := by
  unfold State.captureAddress; split <;> rfl
@[simp] theorem State.captureAddress_rstReq (s : State) : (s.captureAddress).rstReq = s.rstReq := by
  unfold State.captureAddress; split <;> rfl
@[simp] theorem State.captureAddress_cfg (s : State) : (s.captureAddress).cfg = s.cfg := by
  unfold State.captureAddress; split <;> rfl
@[simp] theorem State.captureAddress_freeCtr (s : State) : (s.captureAddress).freeCtr = s.freeCtr := by
  unfold State.captureAddress; split <;> rfl
@[simp] theorem State.captureAddress_trace (s : State) : (s.captureAddress).trace = s.trace := by
  unfold State.captureAddress; split <;> rfl

/-- While `le` is High the bus carries what the latch presents (R33). -/
theorem State.floatBus_of_le_high (s : State) (h : s.le = .high) : s.floatBus = s := by
  unfold State.floatBus; rw [h]

/-- Leaving LatchAddress with a register address on the bus, the chip takes it (R58). -/
theorem State.captureAddress_of_latchAddress (s : State) (hb : s.busState = some .latchAddress)
    (ha : s.busByte.toNat < chipCells) : s.captureAddress.addrLatch = s.busByte.setWidth 4 := by
  simp only [State.captureAddress, hb, ha, and_self, if_true]

/-- From any other bus state the chip's latch keeps its address (R58). -/
theorem State.captureAddress_of_not_latchAddress (s : State) (hb : s.busState ≠ some .latchAddress) :
    s.captureAddress = s := by
  simp only [State.captureAddress, hb, false_and, if_false]

/-- The latch only ever takes a RegisterAddress (R50, R58). -/
theorem State.captureAddress_range (s : State) (h : s.addrLatch.toNat < chipCells) :
    s.captureAddress.addrLatch.toNat < chipCells := by
  unfold State.captureAddress
  split
  · rename_i hc
    have h2 : s.busByte.toNat < 14 := hc.2
    show (s.busByte.setWidth 4).toNat < 14
    rw [BitVec.toNat_setWidth]
    omega
  · exact h

/-- Driving a bus state makes it the bus state (R22). -/
@[simp] theorem State.driveBus_busState (s : State) (b : BusState) : (s.driveBus b).busState = some b := by
  cases b <;> rfl

/-- Recording an event changes no line (R12). -/
@[simp] theorem State.emit_busState (s : State) (e : Event) : (s.emit e).busState = s.busState := rfl

end Sys2Proof.Machine
end

