-- ==== Sys2Proof/Laws/Ops.lean ====
section
/-! SUPPORT. One lemma for each shared operation that says once everything it can do, and the inversion of `exec`,
`perform` and `step`. Later proofs cite these and do not unfold the operations. -/

namespace Sys2Proof.Machine

/-! ## Accepting a command -/

/-- The fields of a state that has accepted a payload (R174). -/
theorem acceptPayload_eq (p : WritePayload) (s : State) :
    acceptPayload p s = { s with queue := p.packets, seq := 0, ready := false } := rfl

/-- The fields of a state that has taken the division fault (R194). -/
theorem raiseDivideByZero_eq (ch : Channel) (s : State) :
    raiseDivideByZero ch s = { s with fault := true, ready := false, faultBy := some ch } := rfl

/-- Everything a command presented to a ready block can do (R174, R197). -/
theorem present_next {e : Encoded} {s t : State} (h : present e s = .next t) :
    s.ready = true ∧ ((∃ ch, e = .divideByZero ch ∧ t = raiseDivideByZero ch s) ∨
      (∃ p, e = .payload p ∧ t = acceptPayload p s)) := by
  unfold present at h
  split at h
  · rename_i hr
    refine ⟨hr, ?_⟩
    cases e with
    | payload p => simp only [Host.Outcome.next.injEq] at h; exact .inr ⟨p, rfl, h.symm⟩
    | divideByZero ch => simp only [Host.Outcome.next.injEq] at h; exact .inl ⟨ch, rfl, h.symm⟩
    | refused r => cases h
  · cases h

/-- Accepting never stops with a fault: the fault's entry is a next state (R194). -/
theorem present_ne_fault (e : Encoded) (s : State) (f : Fault) : present e s ≠ .fault f := by
  unfold present
  split
  · cases e <;> simp
  · simp

/-- Every command's meaning is the acceptance of what its encoder gives (R171, R174). -/
theorem exec_eq_present (i : Instr) (s : State) : exec i s = present (encodeCommand s.cfg i) s := by
  cases i <;> rfl

/-- Everything `exec` can answer as a next state (R174, R194). -/
theorem exec_next {i : Instr} {s t : State} (h : exec i s = .next t) :
    s.ready = true ∧ ((∃ ch, encodeCommand s.cfg i = .divideByZero ch ∧ t = raiseDivideByZero ch s) ∨
      (∃ p, encodeCommand s.cfg i = .payload p ∧ t = acceptPayload p s)) := by
  rw [exec_eq_present] at h
  exact present_next h

/-- Only TONE at frequency zero divides by zero (R193). -/
theorem encodeCommand_divideByZero {c : Cfg} {i : Instr} {ch : Channel}
    (h : encodeCommand c i = .divideByZero ch) : i = Instr.tone ch 0 := by
  cases i with
  | toneA f => simp only [encodeCommand, encodeTone] at h; split at h <;> cases h; simp_all [Instr.tone]
  | toneB f => simp only [encodeCommand, encodeTone] at h; split at h <;> cases h; simp_all [Instr.tone]
  | toneC f => simp only [encodeCommand, encodeTone] at h; split at h <;> cases h; simp_all [Instr.tone]
  | envp fe =>
    simp only [encodeCommand, encodeEnvp] at h
    split at h
    · cases h
    · cases h
    · split at h <;> cases h
  | noise f => cases h
  | envsOneShotSaw => cases h
  | envsRampDown => cases h
  | envsRampUp => cases h
  | envsRepeatedSaw => cases h
  | envsRepeatedTriangle => cases h
  | ampA m l => cases h
  | ampB m l => cases h
  | ampC m l => cases h
  | mix f => cases h

/-! ## The byte-transfer port -/

/-- Everything a moment of the wait can do (R148, R198): `TxDone`, or nothing but the floating bus and one waiting step
less. -/
theorem waitTransfer_cases (s : State) :
    waitTransfer s = txDone s ∨ ∃ plan, waitTransfer s = { s.floatBus with txPlan := plan } := by
  unfold waitTransfer
  split
  · exact .inl rfl
  · exact .inl rfl
  · exact .inr ⟨_, rfl⟩
  · exact .inr ⟨s.txPlan, by rw [← s.floatBus_txPlan]⟩

/-! ## Reset -/

/-- A reset keeps the chip's canonical form, where the transaction it abandons names a cell (R220, U15). -/
theorem resetBlock_chip_wf {s : State} (hm : s.chip.wf) (hq : ∀ p ∈ s.queue, p.addr.toNat < chipCells) :
    (resetBlock s).chip.wf := by
  show s.floatBus.freeAbandonedCell.chip.wf
  by_cases h : s.queue = [] ∨ s.seq = 0
  · rw [State.freeAbandonedCell_of_quiet _ (by simpa using h)]; simpa using hm
  · obtain ⟨h0, h1⟩ := not_or.1 h
    obtain ⟨p, rest, hp⟩ := List.exists_cons_of_ne_nil h0
    rw [State.freeAbandonedCell_chip _ (by simpa using hp) (by simpa using h1), State.floatBus_chip]
    exact Memory.write_wf hm (hq p (hp ▸ List.mem_cons_self ..)) _

/-- A reset changes no cell but the one of the transaction it abandons (R220). -/
theorem resetBlock_read_other {s : State} {a : Nat} (h : ∀ p, s.queue.head? = some p → a ≠ p.addr.toNat) :
    (resetBlock s).chip.read a = s.chip.read a := by
  show s.floatBus.freeAbandonedCell.chip.read a = _
  by_cases hc : s.queue = [] ∨ s.seq = 0
  · rw [State.freeAbandonedCell_of_quiet _ (by simpa using hc), State.floatBus_chip]
  · obtain ⟨h0, h1⟩ := not_or.1 hc
    obtain ⟨p, rest, hp⟩ := List.exists_cons_of_ne_nil h0
    rw [State.freeAbandonedCell_chip _ (by simpa using hp) (by simpa using h1), State.floatBus_chip,
      Memory.read_write_other _ _ _ _ (h p (by rw [hp]; rfl))]

/-! ## Entering a bus state -/

/-- Everything `Enter(S)` can do (R58, R141): drive the triple and record the event, after the chip has taken an
address (Idle) or stored a byte (WriteData). -/
theorem enter_next {b : BusState} {s t : State} (h : enter b s = .next t) :
    (b = .idle ∧ t = (s.captureAddress.driveBus .idle).emit (.setBus .idle)) ∨
    (b = .latchAddress ∧ t = (s.driveBus .latchAddress).emit (.setBus .latchAddress)) ∨
    (b = .writeData ∧ s.addrLatch.toNat < chipCells ∧
      t = (({ s with chip := s.chip.write s.addrLatch.toNat s.busByte } : State).driveBus .writeData).emit
        (.setBus .writeData)) := by
  cases b with
  | idle => simp only [enter, Host.Outcome.next.injEq] at h; exact .inl ⟨rfl, h.symm⟩
  | latchAddress => simp only [enter, Host.Outcome.next.injEq] at h; exact .inr (.inl ⟨rfl, h.symm⟩)
  | writeData =>
    simp only [enter, State.storeByte] at h
    by_cases ha : s.addrLatch.toNat < chipCells
    · rw [if_pos ha] at h
      simp only [Host.Outcome.next.injEq] at h
      exact .inr (.inr ⟨rfl, ha, h.symm⟩)
    · rw [if_neg ha] at h; cases h

/-- Entering Idle or LatchAddress always completes, and WriteData does when the chip's latch holds a register address
(R141). -/
theorem enter_writeData (s : State) (h : s.addrLatch.toNat < chipCells) :
    enter .writeData s = .next ((({ s with chip := s.chip.write s.addrLatch.toNat s.busByte } : State).driveBus
      .writeData).emit (.setBus .writeData)) := by
  simp only [enter, State.storeByte, if_pos h]

/-! ## Advancing -/

/-- Before u11 only `seq` advances (R26). -/
theorem advance_of_ne {s : State} (h : s.seq ≠ 11) : advance s = { s with seq := s.seq + 1 } := by
  unfold advance; rw [if_neg h]

/-- After u11 `seq` is 0, the head packet leaves the queue, and `ready` is set when none is left (R26, R173). -/
theorem advance_of_eq {s : State} (h : s.seq = 11) :
    advance s = { s with seq := 0, queue := s.queue.tail, ready := s.ready || s.queue.tail.isEmpty } := by
  unfold advance retire
  rw [if_pos h]
  cases hq : s.queue.tail with
  | nil => simp [State.setReady]
  | cons q r => simp

/-- What advancing never touches (R173). -/
theorem advance_frame (s : State) :
    advance s = { s with seq := (advance s).seq, queue := (advance s).queue, ready := (advance s).ready } := by
  by_cases h : s.seq = 11
  · rw [advance_of_eq h]
  · rw [advance_of_ne h]

/-- Everything a micro-step's action can do (R144). -/
theorem perform_next {e : Event} {s t : State} (h : perform e s = .next t) :
    (∃ b u, e = .setBus b ∧ enter b s = .next u ∧ t = advance u) ∨
    (∃ l, e = .setLE l ∧ t = advance (driveLE l s)) ∨
    (∃ b, e = .send b ∧ t = startSend b s) := by
  cases e with
  | setBus b =>
    simp only [perform] at h
    split at h
    · rename_i u hu
      simp only [Host.Outcome.next.injEq] at h
      exact .inl ⟨b, u, rfl, hu, h.symm⟩
    · cases h
    · cases h
  | setLE l => simp only [perform, Host.Outcome.next.injEq] at h; exact .inr (.inl ⟨l, rfl, h.symm⟩)
  | send b => simp only [perform, Host.Outcome.next.injEq] at h; exact .inr (.inr ⟨b, rfl, h.symm⟩)

/-! ## The step -/

/-- Everything one step can do when it answers a next state. -/
theorem step_cases {s t : State} (h : step s = .next t) :
    (s.rstReq = true ∧ t = resetBlock s) ∨
    (s.rstReq = false ∧ s.fault = false ∧
      ((s.txwait = true ∧ t = waitTransfer s) ∨
       (s.txwait = false ∧ s.ready = true ∧ s.cmdIn = [] ∧ t = s) ∨
       (s.txwait = false ∧ s.ready = true ∧ ∃ cw rest i, s.cmdIn = cw :: rest ∧ decode cw = .ok i ∧
         exec i { s with cmdIn := rest } = .next t) ∨
       (s.txwait = false ∧ s.ready = false ∧ ∃ p rest, s.queue = p :: rest ∧
         perform (microAction p s.seq) s = .next t))) := by
  unfold step at h
  rcases Bool.eq_false_or_eq_true s.rstReq with hr | hr
  · rw [if_pos hr] at h
    simp only [Host.Outcome.next.injEq] at h
    exact .inl ⟨hr, h.symm⟩
  rw [if_neg (by simp [hr])] at h
  rcases Bool.eq_false_or_eq_true s.fault with hf | hf
  · rw [if_pos hf] at h; cases h
  rw [if_neg (by simp [hf])] at h
  refine .inr ⟨hr, hf, ?_⟩
  rcases Bool.eq_false_or_eq_true s.txwait with hw | hw
  · rw [if_pos hw] at h
    simp only [Host.Outcome.next.injEq] at h
    exact .inl ⟨hw, h.symm⟩
  rw [if_neg (by simp [hw])] at h
  refine .inr ?_
  rcases Bool.eq_false_or_eq_true s.ready with hy | hy
  · rw [if_pos hy] at h
    unfold acceptStep State.fetchCommand at h
    split at h
    · rename_i hc
      split at hc
      · rename_i hn; simp only [Host.Outcome.next.injEq] at h; exact .inl ⟨hw, hy, hn, h.symm⟩
      · cases hc
    · rename_i cw u hc
      split at hc
      · cases hc
      · rename_i rest hn
        simp only [Option.some.injEq, Prod.mk.injEq] at hc
        obtain ⟨rfl, rfl⟩ := hc
        split at h
        · cases h
        · rename_i i hd; exact .inr (.inl ⟨hw, hy, _, _, i, hn, hd, h⟩)
  · rw [if_neg (by simp [hy])] at h
    unfold microStep at h
    split at h
    · cases h
    · rename_i p rest hq; exact .inr (.inr ⟨hw, hy, p, rest, hq, h⟩)

/-- A busy block's step is the micro-step of its head packet (R144). -/
theorem step_of_busy {s : State} {p : Packet} {rest : List Packet} (h : Busy p rest s) :
    step s = perform (microAction p s.seq) s := by
  unfold step microStep
  rw [h.noReset, h.noFault, h.noWait, h.notReady, h.queue]
  rfl

/-- A waiting block's step is a moment of the wait (R25, R148). -/
theorem step_of_waiting {s : State} (h : Waiting s) : step s = .next (waitTransfer s) := by
  unfold step
  rw [h.noReset, h.noFault, h.wait]
  rfl

/-- A word placed for the next fetch is the next command run (log 19). -/
theorem step_withFetchWord (s : State) (nbits w : Nat) {i : Instr}
    (h : decode (BitVec.ofNat 37 (w % 2 ^ nbits)) = .ok i) :
    step (s.withFetchWord nbits w) = exec i { s.withFetchWord nbits w with cmdIn := s.cmdIn } := by
  simp only [step, acceptStep, State.fetchCommand, State.withFetchWord, h, Bool.false_eq_true, if_false, if_true]

/-! ## The two views of a transaction -/

/-- The twelve micro-steps are the trace of R145 (R144). -/
theorem transactionTrace_eq_microActions (p : Packet) :
    transactionTrace p = (List.finRange 12).map (microAction p) := rfl

/-- The document's eight steps and the twelve actions are one sequence (C7). -/
theorem eightSteps_flatten (p : Packet) : (eightSteps p).flatten = transactionTrace p := rfl

/-! ## Runs -/

/-- No steps. -/
@[simp] theorem runFor_zero (s : State) : runFor 0 s = .next s := rfl

/-- A run of any machine that begins with a step to a next state. -/
theorem coreRun_next (M : Host.Core) (k : Nat) {s t : M.State} (h : M.step s = .next t) :
    M.run (k + 1) s = M.run k t := by
  rw [Host.Core.run, h]

/-- A run of any machine that answers a next state begins with a step that does. -/
theorem coreRun_inv (M : Host.Core) (k : Nat) {s t : M.State} (h : M.run (k + 1) s = .next t) :
    ∃ u, M.step s = .next u ∧ M.run k u = .next t := by
  rw [Host.Core.run] at h
  split at h
  · rename_i u hu; exact ⟨u, hu, h⟩
  · cases h
  · cases h

/-- A run that begins with a step. -/
theorem runFor_succ {s t : State} (k : Nat) (h : step s = .next t) : runFor (k + 1) s = runFor k t :=
  coreRun_next core k h

/-- A run that answers a next state begins with a step that does. -/
theorem runFor_succ_next {k : Nat} {s t : State} (h : runFor (k + 1) s = .next t) :
    ∃ u, step s = .next u ∧ runFor k u = .next t :=
  coreRun_inv core k h

/-- Runs follow one another. -/
theorem runFor_add {j k : Nat} {s t : State} (h : runFor j s = .next t) : runFor (j + k) s = runFor k t := by
  induction j generalizing s with
  | zero => simp only [runFor_zero, Host.Outcome.next.injEq] at h; rw [h, Nat.zero_add]
  | succ j ih =>
    obtain ⟨u, hu, h⟩ := runFor_succ_next h
    rw [Nat.succ_add, runFor_succ _ hu]
    exact ih h

/-- What holds at the start and is kept by every step holds at the end of every run. -/
theorem runFor_invariant {P : State → Prop} (hstep : ∀ s t, P s → step s = .next t → P t) {k : Nat} {s t : State}
    (hs : P s) (h : runFor k s = .next t) : P t := by
  induction k generalizing s with
  | zero => simp only [runFor_zero, Host.Outcome.next.injEq] at h; exact h ▸ hs
  | succ k ih =>
    obtain ⟨u, hu, h⟩ := runFor_succ_next h
    exact ih (hstep _ _ hs hu) h

end Sys2Proof.Machine
end

