-- ==== Sys2Proof/Laws/PerInstr.lean ====
section
/-! SUPPORT. Statements made for every instruction, one lemma per constructor. Family `RowMatch`: the command word of
an instruction selects the instruction's own row of spec/opcode_table.json. -/

namespace Sys2Proof.Laws.RowMatch

/-- The encoded command selects its row: `cw & mask == match` (30_encoding.md, the note after R75). -/
def Statement (i : Instr) : Prop := selectsRow (encode i) i.row = true

/-- Masking works part by part on concatenations. -/
theorem and_append {m n : Nat} (a c : BitVec m) (b d : BitVec n) : (a ++ b) &&& (c ++ d) = (a &&& c) ++ (b &&& d) := by
  ext i hi
  simp only [BitVec.getElem_and, BitVec.getElem_append]
  split <;> simp

/-- Masking the three fields of a command word. -/
theorem cw37_and (op op' : BitVec 3) (ch ch' : BitVec 2) (arg arg' : BitVec 32) :
    cw37 op ch arg &&& cw37 op' ch' arg' = cw37 (op &&& op') (ch &&& ch') (arg &&& arg') := by
  show (op ++ ch ++ arg) &&& (op' ++ ch' ++ arg') = (op &&& op') ++ (ch &&& ch') ++ (arg &&& arg')
  rw [and_append, and_append]

/-- A mask that keeps `op` and `ch` and no bit of `arg`. -/
theorem keeps_op_ch (op : BitVec 3) (ch : BitVec 2) (arg : BitVec 32) :
    cw37 op ch arg &&& 0x1F00000000 = cw37 op ch 0 := by
  have hm : (0x1F00000000 : CmdWord) = cw37 7 3 0 := by decide
  have h7 : ∀ x : BitVec 3, x &&& 7 = x := by decide
  have h3 : ∀ x : BitVec 2, x &&& 3 = x := by decide
  rw [hm, cw37_and, h7, h3]
  simp

theorem toneA (freq : Nat) : Statement (.toneA freq) := by
  simp only [Statement, selectsRow, encode, Instr.row, Channel.code, keeps_op_ch]; decide

theorem toneB (freq : Nat) : Statement (.toneB freq) := by
  simp only [Statement, selectsRow, encode, Instr.row, Channel.code, keeps_op_ch]; decide

theorem toneC (freq : Nat) : Statement (.toneC freq) := by
  simp only [Statement, selectsRow, encode, Instr.row, Channel.code, keeps_op_ch]; decide

theorem noise (freq : Nat) : Statement (.noise freq) := by
  simp only [Statement, selectsRow, encode, Instr.row, keeps_op_ch]; decide

theorem envp (fe : BitVec 32) : Statement (.envp fe) := by
  simp only [Statement, selectsRow, encode, Instr.row, keeps_op_ch]; decide

theorem envsOneShotSaw : Statement .envsOneShotSaw := by unfold Statement; decide

theorem envsRampDown : Statement .envsRampDown := by unfold Statement; decide

theorem envsRampUp : Statement .envsRampUp := by unfold Statement; decide

theorem envsRepeatedSaw : Statement .envsRepeatedSaw := by unfold Statement; decide

theorem envsRepeatedTriangle : Statement .envsRepeatedTriangle := by unfold Statement; decide

/-- The mask of AMP keeps every bit but `arg[8:0]`. -/
theorem amp_row (ch : BitVec 2) (m : AmpMode) (l : Byte) :
    cw37 4 ch (ampArg m l) &&& 0x1FFFFFFE00 = cw37 4 ch 0 := by
  have hm : (0x1FFFFFFE00 : CmdWord) = cw37 7 3 ((0x7FFFFF : BitVec 23) ++ (0 : BitVec 1) ++ (0 : BitVec 8)) := by decide
  have h3 : ∀ x : BitVec 2, x &&& 3 = x := by decide
  have ha : ampArg m l &&& ((0x7FFFFF : BitVec 23) ++ (0 : BitVec 1) ++ (0 : BitVec 8)) = 0 := by
    show ((0 : BitVec 23) ++ m.code ++ l) &&& ((0x7FFFFF : BitVec 23) ++ (0 : BitVec 1) ++ (0 : BitVec 8)) = 0
    rw [and_append, and_append]
    simp
  rw [hm, cw37_and, h3, ha]
  rfl

theorem ampA (mode : AmpMode) (level : Byte) : Statement (.ampA mode level) := by
  simp only [Statement, selectsRow, encode, Instr.row, Channel.code, amp_row]; decide

theorem ampB (mode : AmpMode) (level : Byte) : Statement (.ampB mode level) := by
  simp only [Statement, selectsRow, encode, Instr.row, Channel.code, amp_row]; decide

theorem ampC (mode : AmpMode) (level : Byte) : Statement (.ampC mode level) := by
  simp only [Statement, selectsRow, encode, Instr.row, Channel.code, amp_row]; decide

theorem mix (flags : Byte) : Statement (.mix flags) := by
  have hm : (0x1FFFFFFF00 : CmdWord) = cw37 7 3 ((0xFFFFFF : BitVec 24) ++ (0 : BitVec 8)) := by decide
  have ha : mixArg flags &&& ((0xFFFFFF : BitVec 24) ++ (0 : BitVec 8)) = 0 := by
    show ((0 : BitVec 24) ++ flags) &&& ((0xFFFFFF : BitVec 24) ++ (0 : BitVec 8)) = 0
    rw [and_append]
    simp
  simp only [Statement, selectsRow, encode, Instr.row, hm, cw37_and, ha]
  decide

end Sys2Proof.Laws.RowMatch
end

