-- ==== Sys2Proof/Tests/Slice0.lean ====
section
/-! SUPPORT. The model's own tests. Expected results come from spec/95_test_vectors.md (the row is named in each
comment) or from hand calculation with a rule; and one witness for the hypotheses of each statement. -/

namespace Sys2Proof.Tests

open Sys2Proof.Machine

/-- The next state of an outcome. -/
def nextOf : Host.Outcome State Fault Refusal → Option State
  | .next s => some s
  | .fault _ => none
  | .refused _ => none

/-- The packets queued by an outcome's next state. -/
def queued (o : Host.Outcome State Fault Refusal) : Option (List (Nat × Nat)) :=
  (nextOf o).map fun s => s.queue.map fun p => (p.addr.toNat, p.val.toNat)

/-- The refusal of an outcome. -/
def refusalOf : Host.Outcome State Fault Refusal → Option Refusal
  | .refused r => some r
  | .next _ => none
  | .fault _ => none

/-! ## Well-formedness smoke tests: an ill-formed term for each check -/

theorem test_wf_refuses_toneA : ¬ (Instr.toneA (2 ^ 32)).wf := by decide
theorem test_wf_refuses_toneB : ¬ (Instr.toneB (2 ^ 32)).wf := by decide
theorem test_wf_refuses_toneC : ¬ (Instr.toneC (2 ^ 32)).wf := by decide
theorem test_wf_refuses_noise : ¬ (Instr.noise (2 ^ 32)).wf := by decide
theorem test_wf_admits_largest : (Instr.toneA (2 ^ 32 - 1)).wf ∧ (Instr.noise 0).wf := by decide

/-! ## Decoding: words written out from R70 to R73, R79 (op, ch, arg) -/

theorem test_decode_toneA : decode 0b000_00_00000000000000000000001111101000#37 = .ok (.toneA 1000) := by decide
theorem test_decode_toneB : decode 0b000_01_00000000000000000000000110111000#37 = .ok (.toneB 440) := by decide
theorem test_decode_toneC : decode 0b000_10_11111111111111111111111111111111#37 = .ok (.toneC 4294967295) := by decide
theorem test_decode_noise : decode 0b001_00_00000000000000000000111101000010#37 = .ok (.noise 3906) := by decide
theorem test_decode_envp : decode 0b010_00_00111111000000000000000000000000#37 = .ok (.envp 0x3F000000) := by decide
theorem test_decode_oneShotSaw : decode 0b011_00_00000000000000000000000000000000#37 = .ok .envsOneShotSaw := by decide
theorem test_decode_rampDown : decode 0b011_00_00000000000000000000000000000001#37 = .ok .envsRampDown := by decide
theorem test_decode_rampUp : decode 0b011_00_00000000000000000000000000000010#37 = .ok .envsRampUp := by decide
theorem test_decode_repeatedSaw : decode 0b011_00_00000000000000000000000000000011#37 = .ok .envsRepeatedSaw := by decide
theorem test_decode_repeatedTriangle :
    decode 0b011_00_00000000000000000000000000000100#37 = .ok .envsRepeatedTriangle := by decide
theorem test_decode_ampA : decode 0b100_00_00000000000000000000000011111111#37 = .ok (.ampA .fixed 255) := by decide
theorem test_decode_ampB : decode 0b100_01_00000000000000000000000100000000#37 = .ok (.ampB .variable 0) := by decide
theorem test_decode_ampC : decode 0b100_10_00000000000000000000000111111111#37 = .ok (.ampC .variable 255) := by decide
theorem test_decode_mix : decode 0b101_00_00000000000000000000000010101010#37 = .ok (.mix 0xAA) := by decide

/-- 95_test_vectors.md 2.8 and H6, A9, M7: reserved words. -/
theorem test_decode_reserved :
    decode 0x1800000000 = .error .op ∧ decode 0x1C00000000 = .error .op ∧ decode 0x0300000001 = .error .channel ∧
    decode 0x0500000FA0 = .error .channel ∧ decode 0x0C00000008 = .error .mustBeZero ∧
    decode 0x1000000200 = .error .mustBeZero ∧ decode 0x0C00000005 = .error .shape ∧
    decode 0x1300000002 = .error .channel ∧ decode 0x1400000100 = .error .mustBeZero := by decide

/-- The encoder on the words of T2, N1, E1, H3, A6, M5. -/
theorem test_encode :
    encode (.toneB 1000) = 0x01000003E8 ∧ encode (.noise 0) = 0x0400000000 ∧ encode (.envp 0x3F000000) = 0x083F000000 ∧
    encode .envsRampUp = 0x0C00000002 ∧ encode (.ampA .variable 2) = 0x1000000102 ∧
    encode (.mix 0xFF) = 0x14000000FF := by decide

/-- The host's reading of a table word: in 40 bits, and none for a reserved one. -/
theorem test_decodeTableWord :
    decodeTableWord 40 0x14000000FF = some (.mix 0xFF) ∧ decodeTableWord 40 0x1800000000 = none := by decide

/-! ## The commands, from 95_test_vectors.md part 2, at the configuration of State.reset -/

/-- T9: bit 16 of the period is lost. -/
theorem test_toneA_high_period : queued (exec (.toneA 1) State.reset) = some [(0, 0x48), (1, 0xE8)] := by decide
/-- T8: the coarse byte is not masked to four bits. -/
theorem test_toneA_coarse : queued (exec (.toneA 30) State.reset) = some [(0, 0x46), (1, 0x10)] := by decide
/-- T4: truncating division, other addresses. -/
theorem test_toneB : queued (exec (.toneB 440) State.reset) = some [(2, 0x1C), (3, 0x01)] := by decide
/-- T11: the division fault is taken as a next state. -/
theorem test_toneB_zero : (nextOf (exec (.toneB 0) State.reset)).map (fun s => (s.fault, s.ready, s.faultBy, s.trace))
    = some (true, false, some .B, []) := by decide
/-- T3. -/
theorem test_toneC : queued (exec (.toneC 1000) State.reset) = some [(4, 0x7D), (5, 0x00)] := by decide
/-- T10 on channel C: the product is exact above 2^32. -/
theorem test_toneC_largest : queued (exec (.toneC 4294967295) State.reset) = some [(4, 0), (5, 0)] := by decide
/-- N4: the quotient 32 wraps to 0. -/
theorem test_noise_wraps : queued (exec (.noise 3906) State.reset) = some [(6, 0)] := by decide
/-- N5: 125 keeps its low five bits. -/
theorem test_noise_masks : queued (exec (.noise 1000) State.reset) = some [(6, 0x1D)] := by decide
/-- E1: coarse packet first. -/
theorem test_envp : queued (exec (.envp 0x3F000000) State.reset) = some [(0xC, 0x3D), (0xB, 0x09)] := by decide
/-- E8 and E8': `ieee32` differs by one where `exact` and `ieee64` do not. -/
theorem test_envp_arith :
    envDiv .exact 2000000 0x3DCCCCCD = some 78124 ∧ envDiv .ieee64 2000000 0x3DCCCCCD = some 78124 ∧
    envDiv .ieee32 2000000 0x3DCCCCCD = some 78125 := by decide
/-- H1 to H5. -/
theorem test_envs_oneShotSaw : queued (exec .envsOneShotSaw State.reset) = some [(0xD, 0x04)] := by decide
theorem test_envs_rampDown : queued (exec .envsRampDown State.reset) = some [(0xD, 0x00)] := by decide
theorem test_envs_rampUp : queued (exec .envsRampUp State.reset) = some [(0xD, 0x0D)] := by decide
theorem test_envs_repeatedSaw : queued (exec .envsRepeatedSaw State.reset) = some [(0xD, 0x08)] := by decide
theorem test_envs_repeatedTriangle : queued (exec .envsRepeatedTriangle State.reset) = some [(0xD, 0x0A)] := by decide
/-- A5: masked. -/
theorem test_ampA : queued (exec (.ampA .fixed 255) State.reset) = some [(8, 0x0F)] := by decide
/-- A7: level ignored. -/
theorem test_ampB : queued (exec (.ampB .variable 0) State.reset) = some [(9, 0x10)] := by decide
/-- A4: masked, not 0x10. -/
theorem test_ampC : queued (exec (.ampC .fixed 16) State.reset) = some [(0xA, 0x00)] := by decide
/-- M6: bit 7 cleared. -/
theorem test_mix : queued (exec (.mix 0xAA) State.reset) = some [(7, 0x2A)] := by decide

/-- The written form of R81. -/
theorem test_asm : (Instr.ampC .variable 255).asm = "AMP C, Variable, 255" ∧ (Instr.toneB 440).asm = "TONE B, 440" := by
  decide

/-! ## One step -/

/-- A command placed for the next step is accepted by it. -/
theorem test_step_accepts : queued (step (State.reset.withFetchWord 40 0x1400000001)) = some [(7, 0x01)] := by decide

/-- A reserved word placed for the next step is refused (H6). -/
theorem test_step_refuses : refusalOf (step (State.reset.withFetchWord 40 0x0C00000005)) =
    some (.reservedWord .shape) := by decide

/-- A block in the middle of `SeqWrite(0x7, 0x01)`, before micro-step `u<k>`, with the levels and bytes of the table Q1
of 95_test_vectors.md. -/
def busyAt (k : Fin 12) : State :=
  { State.reset with
    dir := (linesBefore k).1, c1 := (linesBefore k).2.1, c2 := (linesBefore k).2.2.1, le := (linesBefore k).2.2.2
    seq := k, queue := [⟨7, 1⟩], ready := false
    addrLatch := if 6 ≤ k.val then 7 else 0
    busByte := if 10 ≤ k.val then 1 else 7
    shiftReg := if k = 9 then 1 else 7
    chip := if k = 11 then Memory.powerOn.write 7 1 else Memory.powerOn }

/-- Q1, u5: the chip takes the address 7. -/
theorem test_u5 : (nextOf (step (busyAt 5))).map (fun s => (s.addrLatch.toNat, s.busState, s.trace)) =
    some (7, some .idle, [.setBus .idle]) := by decide

/-- Q1, u10: the chip stores the value, and nothing else. -/
theorem test_u10 : (nextOf (step (busyAt 10))).map (fun s => (s.chip, s.busState)) =
    some (Memory.powerOn.write 7 1, some .writeData) := rfl

/-- Q1, u11: the command is complete. -/
theorem test_u11 : (nextOf (step (busyAt 11))).map (fun s => (s.ready, s.queue, s.busState)) =
    some (true, [], some .idle) := by decide

/-- Q4: with the answer withheld, u3 is followed by a wait with `le` Low and `ready` 0. -/
theorem test_stall : (nextOf (step { busyAt 3 with txwait := true, txPlan := [none] })).map
    (fun s => (s.txwait, s.seq.val, s.le, s.ready)) = some (true, 3, .low, false) := by decide

/-! ## Witnesses for the hypotheses of the statements -/

/-- The block in the middle of a transaction meets the invariant at every micro-step. -/
theorem busyAt_inv (k : Fin 12) : MachineInv (busyAt k) := by
  have hq : ∀ p, (busyAt k).queue.head? = some p → p = ⟨7, 1⟩ := by
    intro p h; exact (Option.some.inj h).symm
  constructor
  · show Cfg.default.wf; decide
  · revert k; decide
  · revert k; decide
  · revert k; decide
  · revert k; decide
  · revert k; decide
  · revert k; decide
  · revert k; decide
  · revert k; decide
  · revert k; decide
  · revert k; decide
  · intro p hp
    rw [hq p hp]
    clear hq hp
    constructor <;> (revert k; decide)

theorem busyAt_busy (k : Fin 12) : Busy ⟨7, 1⟩ [] (busyAt k) := ⟨rfl, rfl, rfl, rfl, rfl⟩

/-- Reset meets the invariant's fields one by one; used by the witnesses below. -/
def faulted : State := { State.reset with fault := true, ready := false, faultBy := some .B }

theorem faulted_inv : MachineInv faulted := by
  constructor
  · show Cfg.default.wf; decide
  · decide
  · decide
  · decide
  · decide
  · decide
  · decide
  · decide
  · decide
  · decide
  · decide
  · intro p hp; cases hp

theorem reset_quiet : Quiet State.reset := ⟨rfl, rfl, rfl, rfl, rfl, rfl, rfl⟩

/-- A quiet block with two commands presented. -/
def twoCommands : State := { State.reset with cmdIn := [encode (.toneA 1000), encode (.envp 0x3F000000)] }

theorem twoCommands_quiet : Quiet twoCommands := ⟨rfl, rfl, rfl, rfl, rfl, rfl, rfl⟩

/-- A block inside the address `Send`, with an answer plan. -/
def waitingWith (plan : List (Option Nat)) : State := { busyAt 3 with txwait := true, txByte := 7, txPlan := plan }

theorem waitingWith_waiting (plan : List (Option Nat)) : Waiting (waitingWith plan) := ⟨rfl, rfl, rfl⟩

theorem witness_ResetActionRestoresTheBlock :
    ({ busyAt 3 with rstReq := true } : State).rstReq = true ∧
    ({ busyAt 3 with rstReq := true } : State).queue = [⟨7, 1⟩] ∧ ({ busyAt 3 with rstReq := true } : State).seq ≠ 0 ∧ (8 : Nat) ≠ (7 : RegisterAddress).toNat ∧
    ({ State.reset with rstReq := true } : State).rstReq = true ∧
    ({ State.reset with rstReq := true } : State).le = .high ∧
    ({ State.reset with rstReq := true } : State).queue = [] ∧
    ({ busyAt 0 with rstReq := true } : State).seq = 0 := by decide

theorem witness_StepKeepsInvariant : MachineInv (busyAt 0) ∧ ∃ t, step (busyAt 0) = .next t :=
  ⟨busyAt_inv 0, _, rfl⟩

theorem witness_OnlyTheDivisionFaultStops : MachineInv faulted ∧ step faulted = .fault (.divideByZero (some .B)) :=
  ⟨faulted_inv, rfl⟩

theorem witness_StepKeepsConfiguration : step State.reset = .next State.reset := rfl

theorem witness_DecodeOfEncode : (Instr.toneC (2 ^ 32 - 1)).wf ∧ (Instr.noise 0).wf ∧ (Instr.mix 0xFF).wf := by decide

theorem witness_EncodeOfDecode : decode 0x0100000000 = .ok (.toneB 0) := by decide

theorem witness_ReservedWordsAreRefused :
    decode 0x1800000000 = .error .op ∧ State.reset.rstReq = false ∧ State.reset.fault = false ∧
    State.reset.txwait = false ∧ State.reset.ready = true ∧
    ({ State.reset with cmdIn := [0x1800000000] } : State).cmdIn = [0x1800000000] := by decide

theorem witness_OneTableRowPerCommand :
    decode 0x0C00000004 = .ok .envsRepeatedTriangle ∧ decode 0x0C00000005 = .error .shape := by decide

theorem witness_StepRunsTheDecodedCommand :
    ({ State.reset with cmdIn := [0x1400000001] } : State).ready = true ∧ State.reset.rstReq = false ∧
    State.reset.fault = false ∧ State.reset.txwait = false ∧ decode 0x1400000001 = .ok (.mix 1) := by decide

theorem witness_ReadyBlockWaitsForACommand :
    State.reset.rstReq = false ∧ State.reset.fault = false ∧ State.reset.txwait = false ∧ State.reset.ready = true ∧
    State.reset.cmdIn = [] := by decide

/-- One witness for the statements whose only hypotheses are `ready` (NOISE, ENVS, AMP, MIX) and, with the operands
below, for TONE's two clauses. -/
theorem witness_ToneLoadsFineThenCoarse : State.reset.ready = true ∧ 0 < 1 ∧ (0 : Nat) = 0 := by decide
theorem witness_NoiseLoadsOneMaskedPacket : State.reset.ready = true := rfl
theorem witness_EnvsLoadsTheTableValue : State.reset.ready = true := rfl
theorem witness_AmpLoadsLevelOrEnvelopeBit : State.reset.ready = true := rfl
theorem witness_MixLoadsMaskedFlags : State.reset.ready = true := rfl
theorem witness_MixerKeepsSixFlagsClearsTwo : State.reset.ready = true := rfl

/-- The smallest and the largest positive finite patterns, and 0.5. -/
theorem witness_EnvpLoadsCoarseThenFine :
    State.reset.ready = true ∧ State.reset.cfg.envArith = .exact ∧ positiveFinite 0x00000001 ∧
    positiveFinite 0x7F7FFFFF ∧ positiveFinite 0x3F000000 := by decide

theorem witness_EnvpUsesTheSelectedDivider :
    positiveFinite 0x3DCCCCCD ∧ envDiv .ieee32 2000000 0x3DCCCCCD = some 78125 ∧
    positiveFinite 0x00000001 ∧ envDiv .ieee32 2000000 0x00000001 = none ∧
    ({ State.reset with cfg := { Cfg.default with envArith := .ieee32 } } : State).ready = true := by decide

theorem witness_EnvpAtZeroCompletes :
    State.reset.ready = true ∧ zeroPattern 0x00000000 ∧ zeroPattern 0x80000000 := by decide

/-- The smallest negative, -1.0, both infinities and two NaN patterns (E11 to E13). -/
theorem witness_EnvpRefusesOtherOperands :
    State.reset.ready = true ∧
    (¬ zeroPattern 0x80000001 ∧ ¬ positiveFinite 0x80000001) ∧ (¬ zeroPattern 0xBF800000 ∧ ¬ positiveFinite 0xBF800000) ∧
    (¬ zeroPattern 0x7F800000 ∧ ¬ positiveFinite 0x7F800000) ∧ (¬ zeroPattern 0xFF800000 ∧ ¬ positiveFinite 0xFF800000) ∧
    (¬ zeroPattern 0x7FC00000 ∧ ¬ positiveFinite 0x7FC00000) ∧
    (¬ zeroPattern 0x7F800001 ∧ ¬ positiveFinite 0x7F800001) := by decide

theorem half_quotient : envQuotient 2000000 0x3F000000 = 15625 := by
  have he : f32Exp 0x3F000000 = 126 := by decide
  have hf : f32Frac 0x3F000000 = 0 := by decide
  simp only [envQuotient, f32Value, he, hf]
  norm_num

theorem witness_DividersAgreeWithinOne :
    0 < 2000000 ∧ 2000000 < 2 ^ 24 ∧ positiveFinite 0x3F000000 ∧ envQuotient 2000000 0x3F000000 < 2 ^ 24 ∧
    ((⌊envQuotient 2000000 0x3F000000⌋₊ : ℚ) = envQuotient 2000000 0x3F000000) := by
  refine ⟨by decide, by decide, by decide, ?_, ?_⟩
  · rw [half_quotient]; norm_num
  · rw [half_quotient]; norm_num

theorem witness_OnlyBinary32LeavesNoDivider :
    2000000 < 2 ^ 32 ∧ positiveFinite 0x00000001 ∧ envDiv .ieee32 2000000 0x00000001 = none := by decide

theorem witness_PayloadsFollowTheDispatchTable :
    Cfg.default.regAddr.wf ∧ encodeCommand Cfg.default (.mix 0xFF) = .payload (.single ⟨7, 0x3F⟩) := by decide

theorem witness_AcceptingChangesNoLineOrCell : ∃ t, exec (.mix 0) State.reset = .next t := ⟨_, rfl⟩

theorem witness_CommandOutcomesAreExclusive : State.reset.ready = true ∧ State.reset.fault = false := by decide

theorem witness_BusyBlockRefusesCommands : (busyAt 0).ready = false := rfl

theorem witness_CommandsIgnoreHistory :
    State.reset.ready = true ∧ ({ State.reset with busByte := 1, chip := Memory.powerOn.write 7 1 } : State).ready = true ∧
    State.reset.cfg = ({ State.reset with busByte := 1, chip := Memory.powerOn.write 7 1 } : State).cfg ∧ State.reset.queue = [] ∧
    refusalOf (exec (.envp 0x7F800000) State.reset) = some (.envpOperand 0x7F800000) ∧
    queued (exec (.mix 1) State.reset) = some [(7, 1)] := by decide

theorem witness_FaultIsTerminalUntilReset :
    faulted.fault = true ∧ faulted.rstReq = false ∧ ({ faulted with rstReq := true } : State).rstReq = true := by decide

theorem witness_OnlyToneAtZeroRaisesTheFault :
    (nextOf (step { State.reset with cmdIn := [0x0100000000] })).map (fun t => (State.reset.fault, t.fault)) =
      some (false, true) := by decide

theorem witness_EnterDrivesTheTriple :
    State.reset.addrLatch.toNat < 14 ∧ ({ State.reset with addrLatch := 13 } : State).addrLatch.toNat < 14 := by decide

/-- Leaving LatchAddress with 0x0D and with 0x0E on the bus, and entering WriteData. -/
theorem witness_ChipFollowsTheBusEvents :
    (nextOf (enter .idle { busyAt 5 with busByte := 0x0D })).map (fun t => t.addrLatch.toNat) = some 13 ∧
    (busyAt 5).busState = some .latchAddress ∧
    (nextOf (enter .idle { busyAt 5 with busByte := 0x0E })).map (fun t => t.addrLatch.toNat) = some 0 ∧
    (nextOf (enter .writeData (busyAt 10))).map (fun t => (t.chip.read 7, t.chip.read 14)) = some (some 1, none) := by decide

/-- Every clause of the table, one micro-step each. -/
theorem witness_MicroStepFollowsTheTable (k : Fin 12) :
    MachineInv (busyAt k) ∧ Busy ⟨7, 1⟩ [] (busyAt k) ∧ (busyAt k).seq = k := ⟨busyAt_inv k, busyAt_busy k, rfl⟩

theorem witness_OnlyWriteDataChangesTheChip :
    MachineInv (busyAt 10) ∧ (busyAt 10).rstReq = false ∧ (∃ t, step (busyAt 10) = .next t) ∧
    (busyAt 10).queue = [⟨7, 1⟩] ∧ (busyAt 10).seq = 10 ∧
    MachineInv (busyAt 11) ∧ (∃ t, step (busyAt 11) = .next t) ∧ (busyAt 11).seq ≠ 10 :=
  ⟨busyAt_inv 10, rfl, ⟨_, rfl⟩, rfl, rfl, busyAt_inv 11, ⟨_, rfl⟩, by decide⟩

theorem witness_BusStateMovesAreTheFive :
    MachineInv (busyAt 1) ∧ (busyAt 1).rstReq = false ∧ ∃ t, step (busyAt 1) = .next t := ⟨busyAt_inv 1, rfl, _, rfl⟩

theorem witness_LinesAlwaysShowABusState :
    ∃ t, runFor 3 { State.reset with cfg := Cfg.default, cmdIn := [encode (.mix 1)], txPlan := [none] } = .next t :=
  ⟨_, rfl⟩

theorem witness_SequenceIgnoresTheData :
    Busy ⟨7, 1⟩ [] (busyAt 3) ∧ Busy ⟨8, 2⟩ [⟨9, 3⟩] { busyAt 3 with queue := [⟨8, 2⟩, ⟨9, 3⟩] } ∧
    (∃ t, step (busyAt 3) = .next t) ∧ ∃ t, step { busyAt 3 with queue := [⟨8, 2⟩, ⟨9, 3⟩] } = .next t :=
  ⟨busyAt_busy 3, ⟨rfl, rfl, rfl, rfl, rfl⟩, ⟨_, rfl⟩, _, rfl⟩

theorem witness_SeqNeverJumps :
    MachineInv (busyAt 11) ∧ (busyAt 11).rstReq = false ∧ ∃ t, step (busyAt 11) = .next t :=
  ⟨busyAt_inv 11, rfl, _, rfl⟩

theorem witness_StepsRecordAtMostOneEvent : ∃ t, step (busyAt 2) = .next t := ⟨_, rfl⟩

theorem witness_ReadyReturnsOnlyAtTheLastStep :
    MachineInv (busyAt 11) ∧ (busyAt 11).rstReq = false ∧ (busyAt 11).ready = false ∧
    ∃ t, step (busyAt 11) = .next t ∧ t.ready = true := ⟨busyAt_inv 11, rfl, rfl, _, rfl, rfl⟩

theorem witness_TxDoneEndsTheWait :
    Waiting (waitingWith [some 0]) ∧ Waiting (waitingWith [some 2, none]) ∧
    (waitingWith [some 2, none]).txPlan = some 2 :: [none] := ⟨waitingWith_waiting _, waitingWith_waiting _, rfl⟩

theorem witness_StalledTransferHangs : Waiting (waitingWith [none]) ∧ (waitingWith [none]).txPlan = none :: [] :=
  ⟨waitingWith_waiting _, rfl⟩

theorem witness_TransactionWritesOneRegister :
    Busy ⟨7, 1⟩ [] (busyAt 0) ∧ (busyAt 0).seq = 0 ∧ (busyAt 0).prompt ∧ (7 : RegisterAddress).toNat < 14 ∧
    (13 : RegisterAddress).toNat < 14 := ⟨busyAt_busy 0, rfl, rfl, by decide, by decide⟩

theorem witness_FairTransactionsEnd :
    Busy ⟨7, 1⟩ [] { busyAt 0 with txPlan := [some 3, some 0] } ∧ (busyAt 0).seq = 0 ∧
    ({ busyAt 0 with txPlan := [some 3, some 0] } : State).fair ∧ (7 : RegisterAddress).toNat < 14 :=
  ⟨⟨rfl, rfl, rfl, rfl, rfl⟩, rfl, by decide, by decide⟩

theorem witness_FairCommandsComplete :
    MachineInv (busyAt 7) ∧ (busyAt 7).rstReq = false ∧ (busyAt 7).fault = false ∧ (busyAt 7).fair :=
  ⟨busyAt_inv 7, rfl, rfl, by decide⟩

theorem witness_CommandRunsToCompletion :
    Quiet twoCommands ∧ twoCommands.prompt ∧ twoCommands.cfg.wf ∧ (Instr.toneA 1000).wf ∧
    twoCommands.cmdIn = encode (.toneA 1000) :: [encode (.envp 0x3F000000)] ∧
    encodeCommand twoCommands.cfg (.toneA 1000) = .payload (.double ⟨0, 0x7D⟩ ⟨1, 0⟩) :=
  ⟨twoCommands_quiet, rfl, by decide, by decide, rfl, by decide⟩

theorem witness_CommandsRunBackToBack :
    Quiet twoCommands ∧ twoCommands.prompt ∧ twoCommands.cfg.wf ∧
    twoCommands.cmdIn = [Instr.toneA 1000, .envp 0x3F000000].map encode ∧
    ∀ i ∈ [Instr.toneA 1000, .envp 0x3F000000], i.wf ∧ ∃ pl, encodeCommand twoCommands.cfg i = .payload pl := by
  refine ⟨twoCommands_quiet, rfl, by decide, rfl, fun i hi => ?_⟩
  rcases List.mem_cons.1 hi with rfl | hi
  · exact ⟨by decide, .double ⟨0, 0x7D⟩ ⟨1, 0⟩, by decide⟩
  · rw [List.mem_singleton.1 hi]
    exact ⟨by decide, .double ⟨0xC, 0x3D⟩ ⟨0xB, 0x09⟩, by decide⟩

theorem witness_ToneHasAMixedIntermediateState :
    Quiet twoCommands ∧ twoCommands.prompt ∧ twoCommands.cfg.wf ∧ 0 < 1000 ∧ 1000 < 2 ^ 32 ∧
    twoCommands.cmdIn = encode (Instr.tone .A 1000) :: [encode (.envp 0x3F000000)] :=
  ⟨twoCommands_quiet, rfl, by decide, by decide, by decide, rfl⟩

/-- A quiet block with one ENVP presented. -/
def oneEnvp (fe : BitVec 32) : State := { State.reset with cmdIn := [encode (.envp fe)] }

theorem oneEnvp_quiet (fe : BitVec 32) : Quiet (oneEnvp fe) := ⟨rfl, rfl, rfl, rfl, rfl, rfl, rfl⟩

/-- `ENVP 0.5`, and `ENVP` at both zeros. -/
theorem witness_EnvpHasAMixedIntermediateState :
    (∀ fe, Quiet (oneEnvp fe) ∧ (oneEnvp fe).prompt ∧ (oneEnvp fe).cfg.wf ∧
      (oneEnvp fe).cmdIn = encode (.envp fe) :: []) ∧
    positiveFinite 0x3F000000 ∧
    envDiv (oneEnvp 0x3F000000).cfg.envArith (oneEnvp 0x3F000000).cfg.clockHz.toNat 0x3F000000 = some 15625 ∧
    zeroPattern 0x00000000 ∧ zeroPattern 0x80000000 :=
  ⟨fun fe => ⟨oneEnvp_quiet fe, rfl, by show Cfg.default.wf; decide, rfl⟩, by decide, by decide, by decide, by decide⟩

theorem witness_EveryRegisterHoldsAByte : MachineInv (busyAt 11) := busyAt_inv 11

/-- The two states differ in a cell of the chip, in its latch and on the bus. -/
theorem witness_TheChipNeverReachesTheBlock :
    MachineInv (busyAt 0) ∧ MachineInv { busyAt 0 with chip := Memory.powerOn.write 3 9, addrLatch := 5, busByte := 0xFF } ∧
    sameBlock (busyAt 0) { busyAt 0 with chip := Memory.powerOn.write 3 9, addrLatch := 5, busByte := 0xFF } ∧
    ∃ s', step (busyAt 0) = .next s' := by
  refine ⟨busyAt_inv 0, ?_, rfl, _, rfl⟩
  have h := busyAt_inv 0
  exact ⟨h.config, by decide, by decide, h.readyIff, h.queueLength, h.queueRange, h.faultQuiet, h.faultRecord,
    h.waitPlace, h.seqQuiet, h.linesOk, fun p hp => by
      constructor <;> intro h0 <;> revert h0 <;> (intro h1; exact absurd h1 (by decide))⟩

end Sys2Proof.Tests
end

section
/-! SUPPORT. The reserved words of R74: when each part of the decoder answers an error, and what a ready block does with
the word presented at its port. -/

namespace Sys2Proof

/-! ## When a computation that may fail does fail -/

/-- Mapping the result of a computation neither adds nor hides an error. -/
theorem exists_error_map_iff {ε α β : Type} (f : α → β) (x : Except ε α) :
    (∃ e, x.map f = .error e) ↔ ∃ e, x = .error e := by
  cases x <;> simp [Except.map]

/-- When the second computation fails under a condition that does not depend on the first one's result, the sequence
fails when the first fails or that condition holds. -/
theorem exists_error_bind_iff {ε α β : Type} {f : α → Except ε β} {P : Prop}
    (hf : ∀ a, (∃ e, f a = .error e) ↔ P) (x : Except ε α) :
    (∃ e, x.bind f = .error e) ↔ (∃ e, x = .error e) ∨ P := by
  cases x with
  | error e => simp [Except.bind]
  | ok a => simpa [Except.bind] using hf a

/-- A guarded computation fails when its guard holds or it fails itself. -/
theorem exists_error_guard_iff {ε α : Type} (P : Prop) [Decidable P] (r : ε) (x : Except ε α) :
    (∃ e, (if P then .error r else x) = .error e) ↔ P ∨ ∃ e, x = .error e := by
  by_cases hP : P <;> simp [hP]

/-! ## When each part of the decoder answers an error (R72, R73) -/

theorem exists_error_decodeChannel_iff (c : BitVec 2) : (∃ e, decodeChannel c = .error e) ↔ c = 3 := by
  have hc : ∀ c : BitVec 2, c = 0 ∨ c = 1 ∨ c = 2 ∨ c = 3 := by decide
  rcases hc c with rfl | rfl | rfl | rfl <;> simp [decodeChannel]

theorem exists_error_noChannel_iff (c : BitVec 2) (i : Except Reserved Instr) :
    (∃ e, noChannel c i = .error e) ↔ c ≠ 0 ∨ ∃ e, i = .error e := by
  unfold noChannel
  rw [← ite_not]
  exact exists_error_guard_iff _ _ _

theorem exists_error_decodeShape_iff (arg : BitVec 32) :
    (∃ e, decodeShape arg = .error e) ↔ arg.extractLsb' 3 29 ≠ 0 ∨ 5 ≤ (arg.extractLsb' 0 3).toNat := by
  unfold decodeShape
  refine (exists_error_guard_iff _ _ _).trans (or_congr_right ?_)
  generalize (arg.extractLsb' 0 3).toNat = shape
  match shape with
  | 0 | 1 | 2 | 3 | 4 => simp
  | n + 5 => simp

theorem exists_error_decodeAmp_iff (c : Channel) (arg : BitVec 32) :
    (∃ e, decodeAmp c arg = .error e) ↔ arg.extractLsb' 9 23 ≠ 0 :=
  (exists_error_guard_iff _ _ _).trans (by simp)

theorem exists_error_decodeMix_iff (arg : BitVec 32) :
    (∃ e, decodeMix arg = .error e) ↔ arg.extractLsb' 8 24 ≠ 0 :=
  (exists_error_guard_iff _ _ _).trans (by simp)

/-! ## The whole decoder (R74) -/

/-- What makes a word reserved, from its three fields and by its command kind (R74). -/
def reservedFields (op : BitVec 3) (ch : BitVec 2) (arg : BitVec 32) : Prop :=
  match op.toNat with
  | 0 => ch = 3
  | 1 => ch ≠ 0
  | 2 => ch ≠ 0
  | 3 => ch ≠ 0 ∨ arg.extractLsb' 3 29 ≠ 0 ∨ 5 ≤ (arg.extractLsb' 0 3).toNat
  | 4 => ch = 3 ∨ arg.extractLsb' 9 23 ≠ 0
  | 5 => ch ≠ 0 ∨ arg.extractLsb' 8 24 ≠ 0
  | _ => True

/-- The decoder fails on exactly the words with reserved fields: one arm of the decoder after the other. -/
theorem exists_error_decode_iff (cw : CmdWord) :
    (∃ e, decode cw = .error e) ↔ reservedFields (opField cw) (chField cw) (argField cw) := by
  unfold decode reservedFields
  generalize (opField cw).toNat = op
  match op with
  | 0 => exact (exists_error_map_iff _ _).trans (exists_error_decodeChannel_iff _)
  | 1 | 2 => exact (exists_error_noChannel_iff _ _).trans (by simp)
  | 3 => exact (exists_error_noChannel_iff _ _).trans (or_congr_right (exists_error_decodeShape_iff _))
  | 4 =>
    exact (exists_error_bind_iff (fun c => exists_error_decodeAmp_iff c _) _).trans
      (or_congr_left (exists_error_decodeChannel_iff _))
  | 5 => exact (exists_error_noChannel_iff _ _).trans (or_congr_right (exists_error_decodeMix_iff _))
  | _ + 6 => simp

/-- R74 lists the conditions without sorting them by command kind. -/
theorem reservedFields_iff (op : BitVec 3) (ch : BitVec 2) (arg : BitVec 32) :
    reservedFields op ch arg ↔
      6 ≤ op.toNat ∨ ch = 3 ∨ (ch ≠ 0 ∧ op.toNat ∈ [1, 2, 3, 5]) ∨
      (op = 3 ∧ 5 ≤ (arg.extractLsb' 0 3).toNat) ∨ (op = 3 ∧ arg.extractLsb' 3 29 ≠ 0) ∨
      (op = 4 ∧ arg.extractLsb' 9 23 ≠ 0) ∨ (op = 5 ∧ arg.extractLsb' 8 24 ≠ 0) := by
  have hop : ∀ op : BitVec 3, op = 0 ∨ op = 1 ∨ op = 2 ∨ op = 3 ∨ op = 4 ∨ op = 5 ∨ op = 6 ∨ op = 7 := by decide
  rcases hop op with rfl | rfl | rfl | rfl | rfl | rfl | rfl | rfl
  case inr.inr.inr.inl => -- ENVS, the one kind whose operand has two conditions
    by_cases hch : ch = 0#2 <;> simp [reservedFields, hch, or_comm]
  all_goals simp +contextual [reservedFields]

/-- The bits of the operand are the low bits of the word (R70). -/
theorem argField_extractLsb' (cw : CmdWord) {lo len : Nat} (h : lo + len ≤ 32) :
    (argField cw).extractLsb' lo len = cw.extractLsb' lo len :=
  BitVec.extractLsb'_extractLsb'_of_le h

end Sys2Proof

namespace Sys2Proof.Machine

/-! ## A ready block and the word presented to it (R174) -/

/-- A ready block with no reset, fault or transfer outstanding accepts the next command. -/
theorem step_of_ready {s : State} (hreset : s.rstReq = false) (hfault : s.fault = false) (hwait : s.txwait = false)
    (hready : s.ready = true) : step s = acceptStep s := by
  simp [step, hreset, hfault, hwait, hready]

/-- Accepting a reserved word is refused, with the reason the decoder names. -/
theorem acceptStep_of_decode_error {s : State} {cw : CmdWord} {rest : List CmdWord} {e : Reserved}
    (hcmd : s.cmdIn = cw :: rest) (he : decode cw = .error e) : acceptStep s = .refused (.reservedWord e) := by
  simp [acceptStep, State.fetchCommand, hcmd, he]

end Sys2Proof.Machine

namespace Sys2Proof.Proofs

open Sys2Proof Sys2Proof.Machine

/-- Settles O9: the decoder's error conditions, kind by kind, are the conditions R74 lists, and a ready block accepts
the word presented to it, which for a reserved word is the refusal. -/
theorem reservedWordsAreRefused : Obligations.ReservedWordsAreRefused := by
  unfold Obligations.ReservedWordsAreRefused
  refine ⟨fun cw => ?_, fun s cw rest e hreset hfault hwait hready hcmd he => ?_⟩
  · rw [exists_error_decode_iff, reservedFields_iff]
    simp (disch := decide) only [argField_extractLsb']
    exact Iff.rfl
  · rw [step_of_ready hreset hfault hwait hready, acceptStep_of_decode_error hcmd he]

end Sys2Proof.Proofs
end

section
/-! SUPPORT. The period encoders (40_encoders_period.md): the three outcomes of accepting a command on a ready block, the
payloads of TONE and NOISE, the operand classes of ENVP, and the byte split. -/

namespace Sys2Proof.Machine

/-! ## Accepting a command on a ready block, outcome by outcome (R174, R197) -/

theorem exec_of_payload {i : Instr} {s : State} {p : WritePayload} (hready : s.ready = true)
    (hi : encodeCommand s.cfg i = .payload p) :
    exec i s = .next { s with queue := p.packets, seq := 0, ready := false } := by
  simp [exec_eq_present, hi, present, hready, acceptPayload_eq]

theorem exec_of_divideByZero {i : Instr} {s : State} {ch : Channel} (hready : s.ready = true)
    (hi : encodeCommand s.cfg i = .divideByZero ch) :
    exec i s = .next { s with fault := true, ready := false, faultBy := some ch } := by
  simp [exec_eq_present, hi, present, hready, raiseDivideByZero_eq]

theorem exec_of_refused {i : Instr} {s : State} {r : Refusal} (hready : s.ready = true)
    (hi : encodeCommand s.cfg i = .refused r) : exec i s = .refused r := by
  simp [exec_eq_present, hi, present, hready]

/-! ## What TONE and NOISE encode to (R101, R102) -/

/-- The three rows of TONE share one encoder, which takes the channel (R101). -/
theorem encodeCommand_tone (c : Cfg) (ch : Channel) (freq : Nat) :
    encodeCommand c (Instr.tone ch freq) = encodeTone c ch freq := by
  cases ch <;> rfl

theorem encodeCommand_tone_zero (c : Cfg) (ch : Channel) :
    encodeCommand c (Instr.tone ch 0) = .divideByZero ch :=
  encodeCommand_tone c ch 0

theorem encodeCommand_tone_of_pos {freq : Nat} (c : Cfg) (ch : Channel) (hfreq : 0 < freq) :
    encodeCommand c (Instr.tone ch freq) =
      .payload (.double (packetFor c (.toneFine ch) (fineByte (tonePeriod c freq)))
        (packetFor c (.toneCoarse ch) (coarseByte (tonePeriod c freq)))) :=
  (encodeCommand_tone c ch freq).trans (if_neg hfreq.ne')

theorem encodeCommand_noise (c : Cfg) (freq : Nat) :
    encodeCommand c (.noise freq) = .payload (.single (packetFor c .noisePeriod (noiseValue c freq))) := rfl

/-- The mask of R102 is the remainder by 32: a quotient that needs more than five bits wraps. -/
theorem noiseValue_eq_mod (c : Cfg) (freq : Nat) :
    noiseValue c freq = if freq = 0 then 0 else BitVec.ofNat 8 (c.clockHz.toNat / (16 * freq) % 32) := by
  have hmask (q : Nat) : q &&& 0x1F = q % 32 := Nat.and_two_pow_sub_one_eq_mod q 5
  rw [noiseValue, hmask, trunc8]

/-! ## The operand classes of ENVP, and what it encodes to outside `EnvDiv` (R103, R107, R108) -/

/-- The model's three fields decide the class as R103's bit ranges do. -/
theorem envClass_eq (fe : BitVec 32) :
    envClass fe = if zeroPattern fe then .zero else if positiveFinite fe then .positive else .refused := by
  have hexp : f32Exp fe ≠ 0xFF ↔ fe.extractLsb 30 23 ≠ 0xFF := (@BitVec.toNat_inj 8 _ 0xFF).not
  by_cases hzero : zeroPattern fe
  · rw [if_pos hzero]
    exact if_pos hzero
  · have hpos : f32Sign fe = 0 ∧ f32Exp fe ≠ 0xFF ↔ positiveFinite fe := by
      rw [hexp]
      exact ⟨fun ⟨hsign, hfinite⟩ => ⟨hsign, hfinite, hzero⟩, fun ⟨hsign, hfinite, _⟩ => ⟨hsign, hfinite⟩⟩
    rw [if_neg hzero]
    exact (if_neg hzero).trans (if_congr hpos rfl rfl)

theorem encodeCommand_envp_of_zeroPattern {fe : BitVec 32} (c : Cfg) (hzero : zeroPattern fe) :
    encodeCommand c (.envp fe) = .payload (envPayload c Config.envZeroDiv.toNat) := by
  simp only [encodeCommand, encodeEnvp, envClass_eq, if_pos hzero]

theorem encodeCommand_envp_of_other {fe : BitVec 32} (c : Cfg) (hzero : ¬ zeroPattern fe)
    (hpos : ¬ positiveFinite fe) : encodeCommand c (.envp fe) = .refused (.envpOperand fe) := by
  simp only [encodeCommand, encodeEnvp, envClass_eq, if_neg hzero, if_neg hpos]

/-! ## The byte split (R106) -/

@[simp] theorem fineByte_toNat (p : Nat) : (fineByte p).toNat = p % 256 := by
  simp [fineByte]

@[simp] theorem coarseByte_toNat (p : Nat) : (coarseByte p).toNat = p / 256 % 256 := by
  simp [coarseByte]

/-- The two bytes are the digits of `p` to base 256, so joining them gives `p` without its bits from 16 up. -/
theorem coarseByte_append_fineByte (p : Nat) : coarseByte p ++ fineByte p = BitVec.ofNat 16 p := by
  apply BitVec.eq_of_toNat_eq
  rw [BitVec.toNat_append, ← Nat.shiftLeft_add_eq_or_of_lt (fineByte p).isLt, Nat.shiftLeft_eq, fineByte_toNat,
    coarseByte_toNat, BitVec.toNat_ofNat]
  omega

end Sys2Proof.Machine

namespace Sys2Proof.Proofs

open Sys2Proof Sys2Proof.Machine

/-- Settles O14: TONE encodes to the two packets of its period, or to the division fault at frequency 0. -/
theorem toneLoadsFineThenCoarse : Obligations.ToneLoadsFineThenCoarse := by
  unfold Obligations.ToneLoadsFineThenCoarse
  intro ch freq s hready
  constructor
  · intro hfreq
    exact exec_of_payload hready (encodeCommand_tone_of_pos s.cfg ch hfreq)
  · rintro rfl
    exact exec_of_divideByZero hready (encodeCommand_tone_zero s.cfg ch)

/-- Settles O15: NOISE encodes at every frequency, to the quotient modulo 32. -/
theorem noiseLoadsOneMaskedPacket : Obligations.NoiseLoadsOneMaskedPacket := by
  unfold Obligations.NoiseLoadsOneMaskedPacket
  intro freq s hready
  rw [← noiseValue_eq_mod]
  exact exec_of_payload hready (encodeCommand_noise s.cfg freq)

/-- Settles O18: a zero of either sign encodes to the packets of the open divider. -/
theorem envpAtZeroCompletes : Obligations.EnvpAtZeroCompletes := by
  unfold Obligations.EnvpAtZeroCompletes
  intro fe s hready hzero
  exact exec_of_payload hready (encodeCommand_envp_of_zeroPattern s.cfg hzero)

/-- Settles O19: an operand of neither class is of the refused class, and a ready block passes the refusal on. -/
theorem envpRefusesOtherOperands : Obligations.EnvpRefusesOtherOperands := by
  unfold Obligations.EnvpRefusesOtherOperands
  intro fe s hready hzero hpos
  exact exec_of_refused hready (encodeCommand_envp_of_other s.cfg hzero hpos)

/-- Settles O27: the two bytes are the low digits of the number to base 256. -/
theorem byteSplitKeepsLowSixteenBits : Obligations.ByteSplitKeepsLowSixteenBits := by
  unfold Obligations.ByteSplitKeepsLowSixteenBits
  intro p
  exact ⟨fineByte_toNat p, coarseByte_toNat p, coarseByte_append_fineByte p⟩

end Sys2Proof.Proofs
end

section
/-! SUPPORT. The table encoders (41_encoders_table.md): the single packet that ENVS, AMP and MIX encode to. -/

namespace Sys2Proof.Machine

/-- The five rows of ENVS share one encoder, which takes the shape (R120). -/
theorem encodeCommand_envs (c : Cfg) (sh : ShapeType) :
    encodeCommand c (Instr.envs sh) = .payload (.single (packetFor c .envShape (shapeTable sh))) := by
  cases sh <;> rfl

/-- The three rows of AMP share one encoder, which takes the channel (R121). -/
theorem encodeCommand_amp (c : Cfg) (ch : Channel) (m : AmpMode) (level : Byte) :
    encodeCommand c (Instr.amp ch m level) = .payload (.single (packetFor c (.amp ch) (ampValue m level))) := by
  cases ch <;> rfl

theorem encodeCommand_mix (c : Cfg) (flags : Byte) :
    encodeCommand c (.mix flags) = .payload (.single (packetFor c .mixer (flags &&& 0x3F))) := rfl

/-- A ready block that accepts `ENVS sh` queues the table's value for the shape register, whichever the shape. -/
theorem exec_envs {s : State} (hready : s.ready = true) (sh : ShapeType) :
    exec (Instr.envs sh) s = .next { s with
      queue := [⟨s.cfg.regAddr.get .envShape, shapeTable sh⟩], seq := 0, ready := false } :=
  exec_of_payload hready (encodeCommand_envs s.cfg sh)

end Sys2Proof.Machine

namespace Sys2Proof.Proofs

open Sys2Proof Sys2Proof.Machine

/-- Settles O22: each of the five commands is `ENVS` of its shape, whose table value is the byte queued. -/
theorem envsLoadsTheTableValue : Obligations.EnvsLoadsTheTableValue := by
  unfold Obligations.EnvsLoadsTheTableValue
  intro s hready
  exact ⟨exec_envs hready .oneShotSaw, exec_envs hready .rampDown, exec_envs hready .rampUp,
    exec_envs hready .repeatedSaw, exec_envs hready .repeatedTriangle⟩

/-- Settles O24: AMP encodes to the amplitude value of its mode, on every channel. -/
theorem ampLoadsLevelOrEnvelopeBit : Obligations.AmpLoadsLevelOrEnvelopeBit := by
  unfold Obligations.AmpLoadsLevelOrEnvelopeBit
  intro ch level s hready
  exact ⟨exec_of_payload hready (encodeCommand_amp s.cfg ch .fixed level),
    exec_of_payload hready (encodeCommand_amp s.cfg ch .variable level)⟩

/-- Settles O25: MIX encodes at every flag byte, to the masked flags. -/
theorem mixLoadsMaskedFlags : Obligations.MixLoadsMaskedFlags := by
  unfold Obligations.MixLoadsMaskedFlags
  intro flags s hready
  exact exec_of_payload hready (encodeCommand_mix s.cfg flags)

end Sys2Proof.Proofs
end

section
/-! SUPPORT. The bus sequencer (42_bus_sequencer.md): what `Enter(S)` answers, the same for the three bus states. -/

namespace Sys2Proof.Machine

/-- Taking the address touches the chip's address latch only (R58). -/
theorem State.captureAddress_frame (s : State) :
    s.captureAddress = { s with addrLatch := s.captureAddress.addrLatch } := by
  unfold State.captureAddress
  split <;> rfl

/-- Where the latch holds a register address, `Enter(S)` completes: the chip's half touches no more than the cells and
the address latch, and AYW's half drives the triple and records the event (R58, R141). -/
theorem enter_completes (b : BusState) {s : State} (hlatch : s.addrLatch.toNat < chipCells) :
    ∃ chip latch,
      enter b s = .next ((({ s with chip := chip, addrLatch := latch } : State).driveBus b).emit (.setBus b)) := by
  cases b with
  | idle =>
    refine ⟨s.chip, s.captureAddress.addrLatch, ?_⟩
    rw [← s.captureAddress_frame]
    rfl
  | latchAddress => exact ⟨s.chip, s.addrLatch, rfl⟩
  | writeData => exact ⟨_, _, enter_writeData s hlatch⟩

end Sys2Proof.Machine

namespace Sys2Proof.Proofs

open Sys2Proof Sys2Proof.Machine

/-- Settles O35: the next state is the old one with the chip's half done, the triple driven and the event recorded; the
fields the statement keeps are in none of the three. -/
theorem enterDrivesTheTriple : Obligations.EnterDrivesTheTriple := by
  unfold Obligations.EnterDrivesTheTriple
  intro b s hlatch
  obtain ⟨chip, latch, hnext⟩ := enter_completes b hlatch
  refine ⟨_, hnext, ?triple, rfl, rfl, rfl, rfl, rfl, rfl, rfl, rfl⟩
  case triple => cases b <;> rfl

end Sys2Proof.Proofs
end

section
/-! SUPPORT. What one action of the sequencer does to each part of the state (42_bus_sequencer.md R141 to R144). -/

namespace Sys2Proof.Machine

/-! ## Advancing leaves everything but `seq`, `queue` and `ready` (R173) -/

@[simp] theorem advance_dir (s : State) : (advance s).dir = s.dir := by rw [advance_frame]
@[simp] theorem advance_c1 (s : State) : (advance s).c1 = s.c1 := by rw [advance_frame]
@[simp] theorem advance_c2 (s : State) : (advance s).c2 = s.c2 := by rw [advance_frame]
@[simp] theorem advance_le (s : State) : (advance s).le = s.le := by rw [advance_frame]
@[simp] theorem advance_txwait (s : State) : (advance s).txwait = s.txwait := by rw [advance_frame]
@[simp] theorem advance_txByte (s : State) : (advance s).txByte = s.txByte := by rw [advance_frame]
@[simp] theorem advance_fault (s : State) : (advance s).fault = s.fault := by rw [advance_frame]
@[simp] theorem advance_faultBy (s : State) : (advance s).faultBy = s.faultBy := by rw [advance_frame]
@[simp] theorem advance_chip (s : State) : (advance s).chip = s.chip := by rw [advance_frame]
@[simp] theorem advance_addrLatch (s : State) : (advance s).addrLatch = s.addrLatch := by rw [advance_frame]
@[simp] theorem advance_busByte (s : State) : (advance s).busByte = s.busByte := by rw [advance_frame]
@[simp] theorem advance_shiftReg (s : State) : (advance s).shiftReg = s.shiftReg := by rw [advance_frame]
@[simp] theorem advance_cmdIn (s : State) : (advance s).cmdIn = s.cmdIn := by rw [advance_frame]
@[simp] theorem advance_txPlan (s : State) : (advance s).txPlan = s.txPlan := by rw [advance_frame]
@[simp] theorem advance_rstReq (s : State) : (advance s).rstReq = s.rstReq := by rw [advance_frame]
@[simp] theorem advance_cfg (s : State) : (advance s).cfg = s.cfg := by rw [advance_frame]
@[simp] theorem advance_trace (s : State) : (advance s).trace = s.trace := by rw [advance_frame]

/-- `seq` goes to the next of the twelve, and after u11 to 0, which is the next one modulo 12 (R26). -/
@[simp] theorem advance_seq (s : State) : (advance s).seq = s.seq + 1 := by
  by_cases h : s.seq = 11
  · rw [advance_of_eq h, h]; rfl
  · rw [advance_of_ne h]

/-- The bus state that the four lines show: `le` is no part of it (R22). -/
def busStateOfLines (ls : Level × Level × Level × Level) : Option BusState := busStateOf (ls.1, ls.2.1, ls.2.2.1)

theorem State.busState_eq (s : State) : s.busState = busStateOfLines s.lines := rfl

/-! ## AYW's half of an action (R141, R142) -/

/-- Whether the action hands a byte to the transfer primitive. -/
def Event.isSend : Event → Bool
  | .setBus _ => false
  | .setLE _ => false
  | .send _ => true

/-- The four lines after an action: `Enter` drives three of them, the other kind of drive the fourth, and
`Send` none. -/
def Event.drive (e : Event) (ls : Level × Level × Level × Level) : Level × Level × Level × Level :=
  match e with
  | .setBus b => (b.levels.1, b.levels.2.1, b.levels.2.2, ls.2.2.2)
  | .setLE l => (ls.1, ls.2.1, ls.2.2.1, l)
  | .send _ => ls

theorem Event.drive_of_isSend {e : Event} (he : e.isSend = true) (ls : Level × Level × Level × Level) :
    e.drive ls = ls := by
  cases e with
  | setBus b => cases he
  | setLE l => cases he
  | send b => rfl

/-- AYW's half of an action other than `Send`: the lines are driven, and the event is recorded. -/
def State.act (e : Event) (s : State) : State :=
  { s with
    dir := (e.drive s.lines).1, c1 := (e.drive s.lines).2.1, c2 := (e.drive s.lines).2.2.1
    le := (e.drive s.lines).2.2.2, trace := s.trace ++ [e] }

/-- `Enter(S)` is AYW's half of it on a state in which only the chip's half has changed (R58, R141). -/
theorem enter_frame {b : BusState} {s t : State} (h : enter b s = .next t) :
    t = ({ s with chip := t.chip, addrLatch := t.addrLatch } : State).act (.setBus b) := by
  rcases enter_next h with ⟨rfl, rfl⟩ | ⟨rfl, rfl⟩ | ⟨rfl, -, rfl⟩
  · rw [s.captureAddress_frame]; rfl
  · rfl
  · rfl

/-- Driving `le` is AYW's half of it on a state in which only the bus byte has changed (R33, R142). -/
theorem driveLE_frame (l : Level) (s : State) :
    driveLE l s =
      ({ s with busByte := (driveLE l s).busByte, freeCtr := (driveLE l s).freeCtr } : State).act (.setLE l) := by
  cases l <;> rfl

/-- Every action either starts a `Send`, or does AYW's half and advances, beside what it does to the chip and the
bus. -/
theorem perform_frame {e : Event} {s t : State} (h : perform e s = .next t) :
    (∃ b, e = .send b ∧ t = startSend b s) ∨
    e.isSend = false ∧ ∃ chip latch bus ctr,
      t = advance (({ s with chip := chip, addrLatch := latch, busByte := bus, freeCtr := ctr } : State).act e) := by
  rcases perform_next h with ⟨b, u, rfl, hu, rfl⟩ | ⟨l, rfl, rfl⟩ | ⟨b, rfl, rfl⟩
  · exact .inr ⟨rfl, u.chip, u.addrLatch, s.busByte, s.freeCtr, congrArg advance (enter_frame hu)⟩
  · exact .inr ⟨rfl, s.chip, s.addrLatch, (driveLE l s).busByte, (driveLE l s).freeCtr,
      congrArg advance (driveLE_frame l s)⟩
  · exact .inl ⟨b, rfl, rfl⟩

/-! ## What every action does to AYW's own state -/

/-- The environment's inputs, the constants, the fault and the shift register are the same in both states. -/
structure KeepsSurroundings (s t : State) : Prop where
  fault : t.fault = s.fault
  faultBy : t.faultBy = s.faultBy
  rstReq : t.rstReq = s.rstReq
  cmdIn : t.cmdIn = s.cmdIn
  txPlan : t.txPlan = s.txPlan
  cfg : t.cfg = s.cfg
  shiftReg : t.shiftReg = s.shiftReg

@[simp] theorem State.floatBus_lines (s : State) : s.floatBus.lines = s.lines := by simp [State.lines]

section
variable {e : Event} {s t : State} (h : perform e s = .next t)
include h

theorem perform_lines : t.lines = e.drive s.lines := by
  rcases perform_frame h with ⟨b, rfl, rfl⟩ | ⟨-, chip, latch, bus, ctr, rfl⟩
  · exact s.floatBus_lines
  · simp [State.lines, State.act]

theorem perform_trace : t.trace = s.trace ++ [e] := by
  rcases perform_frame h with ⟨b, rfl, rfl⟩ | ⟨-, chip, latch, bus, ctr, rfl⟩ <;> simp [startSend, State.act]

theorem perform_txwait : t.txwait = (s.txwait || e.isSend) := by
  rcases perform_frame h with ⟨b, rfl, rfl⟩ | ⟨he, chip, latch, bus, ctr, rfl⟩
  · simp [startSend, Event.isSend]
  · simp [State.act, he]

theorem perform_seq : t.seq = if e.isSend then s.seq else s.seq + 1 := by
  rcases perform_frame h with ⟨b, rfl, rfl⟩ | ⟨he, chip, latch, bus, ctr, rfl⟩
  · simp [startSend, Event.isSend]
  · simp [State.act, he]

/-- The queue changes only when the last micro-step's action, which is no `Send`, completes (R173). -/
theorem perform_queue : t.queue = if e.isSend = false ∧ s.seq = 11 then s.queue.tail else s.queue := by
  rcases perform_frame h with ⟨b, rfl, rfl⟩ | ⟨he, chip, latch, bus, ctr, rfl⟩
  · simp [startSend, Event.isSend]
  · by_cases hs : s.seq = 11
    · simp [State.act, he, hs, advance_of_eq]
    · simp [State.act, he, hs, advance_of_ne]

/-- So does `ready`, which is set when no packet is left (R173). -/
theorem perform_ready :
    t.ready = (s.ready || decide (e.isSend = false ∧ s.seq = 11) && s.queue.tail.isEmpty) := by
  rcases perform_frame h with ⟨b, rfl, rfl⟩ | ⟨he, chip, latch, bus, ctr, rfl⟩
  · simp [startSend, Event.isSend]
  · by_cases hs : s.seq = 11
    · simp [State.act, he, hs, advance_of_eq]
    · simp [State.act, he, hs, advance_of_ne]

/-- No action touches them. -/
theorem perform_keeps : KeepsSurroundings s t := by
  rcases perform_frame h with ⟨b, rfl, rfl⟩ | ⟨-, chip, latch, bus, ctr, rfl⟩ <;>
    constructor <;> simp [startSend, State.act]

/-! ## What every action does to the chip and its latch (R58) -/

/-- Only entering WriteData changes a cell: the one the chip's latch names, which gets the byte on the bus. -/
theorem perform_chip :
    t.chip = if e = .setBus .writeData then s.chip.write s.addrLatch.toNat s.busByte else s.chip := by
  rcases perform_next h with ⟨b, u, rfl, hu, rfl⟩ | ⟨l, rfl, rfl⟩ | ⟨b, rfl, rfl⟩
  · rcases enter_next hu with ⟨rfl, rfl⟩ | ⟨rfl, rfl⟩ | ⟨rfl, -, rfl⟩ <;> simp
  · cases l <;> simp [driveLE]
  · simp [startSend]

/-- Only entering Idle changes the chip's latch: it may take an address. -/
theorem perform_addrLatch :
    t.addrLatch = if e = .setBus .idle then s.captureAddress.addrLatch else s.addrLatch := by
  rcases perform_next h with ⟨b, u, rfl, hu, rfl⟩ | ⟨l, rfl, rfl⟩ | ⟨b, rfl, rfl⟩
  · rcases enter_next hu with ⟨rfl, rfl⟩ | ⟨rfl, rfl⟩ | ⟨rfl, -, rfl⟩ <;> simp
  · cases l <;> simp [driveLE]
  · simp [startSend]

end

/-- Entering a bus state leaves the byte on the bus (R33). -/
theorem perform_setBus_busByte {b : BusState} {s t : State} (h : perform (.setBus b) s = .next t) :
    t.busByte = s.busByte := by
  obtain ⟨_, u, hb, hu, rfl⟩ | ⟨_, hl, -⟩ | ⟨_, hb, -⟩ := perform_next h
  · rcases enter_next hu with ⟨-, rfl⟩ | ⟨-, rfl⟩ | ⟨-, -, rfl⟩ <;> simp
  · cases hl
  · cases hb

/-- When `le` rises the latch presents the byte of the shift register (R33, R142). -/
theorem perform_setLE_high_busByte {s t : State} (h : perform (.setLE .high) s = .next t) :
    t.busByte = s.shiftReg := by
  simp only [perform, Host.Outcome.next.injEq] at h
  simp [← h, driveLE]

/-- `Send` puts its byte on the port (R148). -/
theorem perform_send_txByte {b : Byte} {s t : State} (h : perform (.send b) s = .next t) : t.txByte = b := by
  simp only [perform, Host.Outcome.next.injEq] at h
  simp [← h, startSend]

/-- Where the chip's latch holds a register address every action completes; but for entering WriteData it
always does. -/
theorem perform_completes (e : Event) (s : State) (hlatch : e = .setBus .writeData → s.addrLatch.toNat < chipCells) :
    ∃ t, perform e s = .next t := by
  cases e with
  | setBus b =>
    cases b with
    | idle => exact ⟨_, rfl⟩
    | latchAddress => exact ⟨_, rfl⟩
    | writeData => exact ⟨_, by rw [perform, enter_writeData s (hlatch rfl)]⟩
  | setLE l => exact ⟨_, rfl⟩
  | send b => exact ⟨_, rfl⟩

end Sys2Proof.Machine
end

section
/-! SUPPORT. A transaction in progress (42_bus_sequencer.md R144, R155): the rows of the micro-step table, what a
transaction has established before each of them, and that every step of it keeps that. -/

namespace Sys2Proof.Machine

/-! ## The rows of the micro-step table -/

/-- The two `Send`s of the table are u3 and u8. -/
theorem microAction_isSend (p : Packet) (k : Fin 12) : (microAction p k).isSend = decide (k = 3 ∨ k = 8) := by
  fin_cases k <;> rfl

/-- The one row that enters WriteData is u10. -/
theorem microAction_eq_writeData (p : Packet) (k : Fin 12) : microAction p k = .setBus .writeData ↔ k = 10 := by
  fin_cases k <;> simp [microAction]

/-- The action of a row takes the lines before it to the lines after it. -/
theorem microAction_drive (p : Packet) (k : Fin 12) : (microAction p k).drive (linesBefore k) = linesAfter k := by
  fin_cases k <;> rfl

/-- The lines after a row are those before the next one. -/
theorem linesAfter_eq (k : Fin 12) : linesAfter k = linesBefore (k + 1) := by
  revert k; decide

/-- While `Send` is awaited the lines are those before it as well. -/
theorem linesBefore_succ_of_send {k : Fin 12} (h : k = 3 ∨ k = 8) : linesBefore (k + 1) = linesBefore k := by
  rcases h with rfl | rfl <;> rfl

/-- How far the lines are those of the table before `u<seq>` when the transaction began at any levels (R143): the
control lines from u1 on, `le` from u3 on. -/
def LinesFit (k : Fin 12) (ls : Level × Level × Level × Level) : Prop :=
  (k ≠ 0 → (ls.1, ls.2.1, ls.2.2.1) = ((linesBefore k).1, (linesBefore k).2.1, (linesBefore k).2.2.1)) ∧
  (3 ≤ k → ls.2.2.2 = (linesBefore k).2.2.2)

theorem linesFit_zero (ls : Level × Level × Level × Level) : LinesFit 0 ls :=
  ⟨fun h => absurd rfl h, fun h => absurd h (by decide)⟩

theorem linesFit_linesBefore (k : Fin 12) : LinesFit k (linesBefore k) := ⟨fun _ => rfl, fun _ => rfl⟩

theorem LinesFit.drive {k : Fin 12} {ls : Level × Level × Level × Level} (h : LinesFit k ls) (p : Packet) :
    LinesFit (k + 1) ((microAction p k).drive ls) := by
  fin_cases k <;> simp_all [LinesFit, microAction, linesBefore, Event.drive, BusState.levels]

/-- Whatever the levels at its start, a transaction ends with Idle and `le` High. -/
theorem LinesFit.drive_last {ls : Level × Level × Level × Level} (h : LinesFit 11 ls) (p : Packet) :
    (microAction p 11).drive ls = linesBefore 0 := by
  have hle : ls.2.2.2 = .high := h.2 (by decide)
  simp [microAction, Event.drive, BusState.levels, linesBefore, hle]

/-- Before u1 to u11 the lines show the bus state of the table (R22). -/
theorem LinesFit.busState {s : State} (h : LinesFit s.seq s.lines) (hs : s.seq ≠ 0) :
    s.busState = busStateOfLines (linesBefore s.seq) :=
  congrArg busStateOf (h.1 hs)

/-! ## A moment of the wait -/

theorem State.floatBus_frame (s : State) :
    s.floatBus = { s with busByte := s.floatBus.busByte, freeCtr := s.floatBus.freeCtr } := by
  unfold State.floatBus
  split <;> rfl

/-- Without an answer only the bus, the model's counter and the answers to come change. -/
theorem waitTransfer_eq_txDone_or (s : State) :
    waitTransfer s = txDone s ∨
    ∃ bus ctr plan, waitTransfer s = { s with busByte := bus, freeCtr := ctr, txPlan := plan } := by
  refine (waitTransfer_cases s).imp_right fun ⟨plan, h⟩ => ⟨s.floatBus.busByte, s.floatBus.freeCtr, plan, ?_⟩
  rw [h, s.floatBus_frame]

/-! ## What a transaction has established, row by row (R33, R58, R155) -/

/-- What the transaction of `p` has established when `u<k>` is next. -/
def Established (p : Packet) (s : State) : Fin 12 → Prop
  | 0 => True
  | 1 => True
  | 2 => True
  | 3 => s.txwait = true → s.txByte = addressByte p.addr
  | 4 => s.shiftReg = addressByte p.addr
  | 5 => s.busByte = addressByte p.addr
  | 6 => s.addrLatch = p.addr ∧ s.busByte = addressByte p.addr
  | 7 => s.addrLatch = p.addr ∧ s.busByte = addressByte p.addr
  | 8 => s.addrLatch = p.addr ∧ (s.txwait = true → s.txByte = p.val)
  | 9 => s.addrLatch = p.addr ∧ s.shiftReg = p.val
  | 10 => s.addrLatch = p.addr ∧ s.busByte = p.val
  | 11 => s.addrLatch = p.addr ∧ s.busByte = p.val ∧ s.chip.read p.addr.toNat = some p.val

/-- The invariant's clauses about a transaction, sorted by row. -/
theorem transactionData_iff {p : Packet} {s : State} {k : Fin 12} (hk : s.seq = k) :
    TransactionData p s ↔ Established p s k := by
  constructor
  · rintro ⟨h3, h4, h5, hlatch, h8, h9, h10, h11⟩
    rw [hk] at h3 h4 h5 hlatch h8 h9 h10 h11
    clear hk
    fin_cases k <;> simp_all [Established]
  · intro h
    constructor <;> (rw [hk]; clear hk; fin_cases k <;> simp_all [Established])

/-- A register address survives the way over the 8-bit bus (R58, R77). -/
theorem setWidth_addressByte (a : RegisterAddress) : (addressByte a).setWidth 4 = a := by
  simp [addressByte]

theorem addressByte_toNat (a : RegisterAddress) : (addressByte a).toNat = a.toNat := by
  have : a.toNat < 16 := a.isLt
  simp [addressByte]
  omega

/-- One transaction in progress, whatever the levels it began at and whatever the rest of the chip holds. -/
structure Sending (p : Packet) (rest : List Packet) (s : State) : Prop where
  queue : s.queue = p :: rest
  notReady : s.ready = false
  noFault : s.fault = false
  noReset : s.rstReq = false
  cell : p.addr.toNat < chipCells
  waitPlace : s.txwait = true → s.seq = 3 ∨ s.seq = 8
  lines : LinesFit s.seq s.lines
  established : Established p s s.seq

/-- A transaction that is about to begin. -/
theorem Busy.sending {p : Packet} {rest : List Packet} {s : State} (h : Busy p rest s) (hseq : s.seq = 0)
    (hcell : p.addr.toNat < chipCells) : Sending p rest s where
  queue := h.queue
  notReady := h.notReady
  noFault := h.noFault
  noReset := h.noReset
  cell := hcell
  waitPlace hw := by simp [h.noWait] at hw
  lines := hseq ▸ linesFit_zero _
  established := by rw [hseq]; trivial

theorem Sending.busy {p : Packet} {rest : List Packet} {s : State} (h : Sending p rest s) (hwait : s.txwait = false) :
    Busy p rest s := ⟨h.queue, h.notReady, h.noFault, hwait, h.noReset⟩

theorem Sending.waiting {p : Packet} {rest : List Packet} {s : State} (h : Sending p rest s) (hwait : s.txwait = true) :
    Waiting s := ⟨hwait, h.noFault, h.noReset⟩

/-- The sequencer has the packets `ps` to send, and the transaction of the first is about to begin; with no packet the
block is between commands. -/
structure Loaded (ps : List Packet) (s : State) : Prop where
  queue : s.queue = ps
  ready : s.ready = ps.isEmpty
  noFault : s.fault = false
  noWait : s.txwait = false
  noReset : s.rstReq = false
  atStart : s.seq = 0
  idle : s.lines = linesBefore 0

/-- What the end of the transaction of `p` leaves: the rest of the packets, and `p` on the bus and in the chip's
latch. -/
structure Done (p : Packet) (rest : List Packet) (s : State) : Prop where
  loaded : Loaded rest s
  busByte : s.busByte = p.val
  addrLatch : s.addrLatch = p.addr

section
variable {p : Packet} {rest : List Packet} {s t : State}

theorem Loaded.busy (h : Loaded (p :: rest) s) : Busy p rest s := ⟨h.queue, h.ready, h.noFault, h.noWait, h.noReset⟩

theorem Loaded.quiet (h : Loaded [] s) : Quiet s :=
  ⟨h.ready, h.noFault, h.noWait, h.noReset, h.queue, h.atStart, h.idle⟩

/-- When the chip's cells are written, its latch holds the packet's address. -/
theorem Sending.latch_of_writeData (h : Sending p rest s) (he : microAction p s.seq = .setBus .writeData) :
    s.addrLatch = p.addr := by
  have hest := h.established
  rw [(microAction_eq_writeData p s.seq).1 he] at hest
  exact hest.1

/-- The micro-step of a transaction in progress completes (R144). -/
theorem Sending.step_completes (h : Sending p rest s) (hwait : s.txwait = false) :
    ∃ t, step s = .next t ∧ perform (microAction p s.seq) s = .next t := by
  obtain ⟨t, ht⟩ := perform_completes (microAction p s.seq) s fun he => h.latch_of_writeData he ▸ h.cell
  exact ⟨t, (step_of_busy (h.busy hwait)).trans ht, ht⟩

/-- A row's action brings about what is to be established before the next row. -/
theorem Sending.established_perform (h : Sending p rest s) (hwait : s.txwait = false)
    (ht : perform (microAction p s.seq) s = .next t) : Established p t t.seq := by
  obtain ⟨-, -, -, -, hcell, -, hlines, hest⟩ := h
  have hseq := perform_seq ht
  have hlatch := perform_addrLatch ht
  have hchip := perform_chip ht
  have htxwait := perform_txwait ht
  have hbus : s.seq ≠ 0 → s.busState = _ := hlines.busState
  rw [hseq]
  generalize s.seq = k at ht hest hlatch hchip htxwait hbus ⊢
  match k with
  | 0 => trivial
  | 1 => trivial
  | 2 => exact fun hw => by simp [htxwait, hwait, microAction, Event.isSend] at hw
  | 3 => exact fun _ => perform_send_txByte ht
  | 4 => exact (perform_setLE_high_busByte ht).trans hest
  | 5 =>
    have hbyte : s.busByte = addressByte p.addr := hest
    refine ⟨?_, (perform_setBus_busByte ht).trans hest⟩
    have hrange : s.busByte.toNat < chipCells := by rw [hbyte, addressByte_toNat]; exact hcell
    have htake : t.addrLatch = s.captureAddress.addrLatch := hlatch.trans (if_pos rfl)
    rw [htake, s.captureAddress_of_latchAddress (hbus (by decide)) hrange, hbyte, setWidth_addressByte]
  | 6 =>
    have hidle : s.busState = some .idle := hbus (by decide)
    have htake : t.addrLatch = s.captureAddress.addrLatch := hlatch.trans (if_pos rfl)
    rw [s.captureAddress_of_not_latchAddress (by simp [hidle])] at htake
    exact ⟨htake.trans hest.1, (perform_setBus_busByte ht).trans hest.2⟩
  | 7 => exact ⟨hlatch.trans hest.1, fun hw => by simp [htxwait, hwait, microAction, Event.isSend] at hw⟩
  | 8 => exact ⟨hlatch.trans hest.1, fun _ => perform_send_txByte ht⟩
  | 9 => exact ⟨hlatch.trans hest.1, (perform_setLE_high_busByte ht).trans hest.2⟩
  | 10 =>
    refine ⟨hlatch.trans hest.1, (perform_setBus_busByte ht).trans hest.2, ?_⟩
    have hstore : t.chip = s.chip.write s.addrLatch.toNat s.busByte := hchip.trans (if_pos rfl)
    rw [hstore, hest.1, hest.2, Memory.read_write_same]
  | 11 => trivial

/-- Every micro-step but the last leaves the transaction in progress. -/
theorem Sending.after_perform (h : Sending p rest s) (hwait : s.txwait = false) (hlast : s.seq ≠ 11)
    (ht : perform (microAction p s.seq) s = .next t) : Sending p rest t where
  queue := by rw [perform_queue ht, if_neg fun hc => hlast hc.2, h.queue]
  notReady := by simp [perform_ready ht, h.notReady, hlast]
  noFault := (perform_keeps ht).fault.trans h.noFault
  noReset := (perform_keeps ht).rstReq.trans h.noReset
  cell := h.cell
  waitPlace hw := by
    have hsend : (microAction p s.seq).isSend = true := by simpa [perform_txwait ht, hwait] using hw
    rw [perform_seq ht, if_pos hsend]
    simpa [microAction_isSend] using hsend
  lines := by
    rw [perform_lines ht, perform_seq ht]
    split
    case isFalse => exact h.lines.drive p
    case isTrue hsend => rw [Event.drive_of_isSend hsend]; exact h.lines
  established := h.established_perform hwait ht

/-- Its last micro-step ends it: the next packet is loaded, or the block is between commands (R173). -/
theorem Sending.after_last (h : Sending p rest s) (hwait : s.txwait = false) (hlast : s.seq = 11)
    (ht : perform (microAction p s.seq) s = .next t) : Done p rest t := by
  have hsend : (microAction p s.seq).isSend = false := by rw [hlast]; rfl
  have hlines := h.lines
  have hbus := hlines.busState (by simp [hlast])
  have hest := h.established
  rw [hlast] at hlines hest hbus
  have hlatch : t.addrLatch = s.captureAddress.addrLatch :=
    (perform_addrLatch ht).trans (if_pos (by rw [hlast]; rfl))
  rw [s.captureAddress_of_not_latchAddress (by rw [hbus]; decide)] at hlatch
  exact {
    loaded := {
      queue := by rw [perform_queue ht, if_pos ⟨hsend, hlast⟩, h.queue]; rfl
      ready := by
        rw [perform_ready ht, h.notReady, hsend, hlast, h.queue]
        simp
      noFault := (perform_keeps ht).fault.trans h.noFault
      noWait := by rw [perform_txwait ht, hwait, hsend]; rfl
      noReset := (perform_keeps ht).rstReq.trans h.noReset
      atStart := by rw [perform_seq ht, hsend, hlast]; rfl
      idle := by rw [perform_lines ht, hlast, hlines.drive_last] }
    busByte := by
      rw [hlast] at ht
      exact (perform_setBus_busByte ht).trans hest.2.1
    addrLatch := hlatch.trans hest.1 }

/-- A moment of the wait without an answer leaves it in progress: neither `Send` relies on the bus. -/
theorem Sending.after_waiting (h : Sending p rest s) (hwait : s.txwait = true) (bus : Byte) (ctr : Nat)
    (plan : List (Option Nat)) : Sending p rest { s with busByte := bus, freeCtr := ctr, txPlan := plan } where
  queue := h.queue
  notReady := h.notReady
  noFault := h.noFault
  noReset := h.noReset
  cell := h.cell
  waitPlace := h.waitPlace
  lines := h.lines
  established := by
    have hest := h.established
    show Established p _ s.seq
    rcases h.waitPlace hwait with hs | hs <;> rw [hs] at hest ⊢ <;> exact hest

/-- So does the answer, after which the byte stands in the shift register. -/
theorem Sending.after_txDone (h : Sending p rest s) (hwait : s.txwait = true) : Sending p rest (txDone s) where
  queue := s.floatBus_queue.trans h.queue
  notReady := s.floatBus_ready.trans h.notReady
  noFault := s.floatBus_fault.trans h.noFault
  noReset := s.floatBus_rstReq.trans h.noReset
  cell := h.cell
  waitPlace hw := by cases hw
  lines := by
    show LinesFit (s.seq + 1) s.floatBus.lines
    rw [s.floatBus_lines]
    have hsend := (microAction_isSend p s.seq).trans (decide_eq_true (h.waitPlace hwait))
    exact Event.drive_of_isSend hsend s.lines ▸ h.lines.drive p
  established := by
    have hest := h.established
    show Established p _ (s.seq + 1)
    rcases h.waitPlace hwait with hs | hs <;> rw [hs] at hest ⊢
    · exact hest hwait
    · exact ⟨s.floatBus_addrLatch.trans hest.1, hest.2 hwait⟩

end

end Sys2Proof.Machine
end

section
/-! SUPPORT. All commands together (43_facade.md R171, R174, R197): where their packets go, what accepting one changes,
and what decides its outcome. -/

namespace Sys2Proof

/-! ## The registers a command writes (R50, R76, R171) -/

theorem RegName.mem_all (r : RegName) : r ∈ RegName.all := by
  cases r with
  | toneFine ch => cases ch <;> decide
  | toneCoarse ch => cases ch <;> decide
  | amp ch => cases ch <;> decide
  | noisePeriod => decide
  | mixer => decide
  | envCoarse => decide
  | envFine => decide
  | envShape => decide

/-- Every named register is one of the chip's cells. -/
theorem RegAddr.wf.get_lt {t : RegAddr} (ht : t.wf) (r : RegName) : (t.get r).toNat < chipCells :=
  ht.2 _ (List.mem_map_of_mem r.mem_all)

/-- Two named registers are two cells. -/
theorem RegAddr.wf.get_injective {t : RegAddr} (ht : t.wf) : Function.Injective t.get := fun r r' h =>
  List.inj_on_of_nodup_map ht.1 r.mem_all r'.mem_all h

end Sys2Proof

namespace Sys2Proof.Machine

theorem encodeTone_addrs {c : Cfg} {ch : Channel} {f : Nat} {pl : WritePayload} (h : encodeTone c ch f = .payload pl) :
    pl.packets.map Packet.addr = [c.regAddr.get (.toneFine ch), c.regAddr.get (.toneCoarse ch)] := by
  unfold encodeTone at h
  split at h
  · cases h
  · cases h; rfl

theorem encodeEnvp_addrs {c : Cfg} {fe : BitVec 32} {pl : WritePayload} (h : encodeEnvp c fe = .payload pl) :
    pl.packets.map Packet.addr = [c.regAddr.get .envCoarse, c.regAddr.get .envFine] := by
  unfold encodeEnvp at h
  split at h
  · cases h
  · cases h; rfl
  · split at h
    · cases h; rfl
    · cases h

/-- The packets of a command go to the registers of R171's table, in its order. -/
theorem encodeCommand_addrs {c : Cfg} {i : Instr} {pl : WritePayload} (h : encodeCommand c i = .payload pl) :
    pl.packets.map Packet.addr = (payloadRegisters i).map c.regAddr.get := by
  cases i with
  | toneA f => exact encodeTone_addrs h
  | toneB f => exact encodeTone_addrs h
  | toneC f => exact encodeTone_addrs h
  | envp fe => exact encodeEnvp_addrs h
  | noise f => cases h; rfl
  | envsOneShotSaw => cases h; rfl
  | envsRampDown => cases h; rfl
  | envsRampUp => cases h; rfl
  | envsRepeatedSaw => cases h; rfl
  | envsRepeatedTriangle => cases h; rfl
  | ampA m l => cases h; rfl
  | ampB m l => cases h; rfl
  | ampC m l => cases h; rfl
  | mix f => cases h; rfl

/-- So every packet of a command names one of the 14 cells. -/
theorem encodeCommand_cells {c : Cfg} {i : Instr} {pl : WritePayload} (hc : c.regAddr.wf)
    (h : encodeCommand c i = .payload pl) : ∀ p ∈ pl.packets, p.addr.toNat < chipCells := by
  intro p hp
  have hmem : p.addr ∈ (payloadRegisters i).map c.regAddr.get := encodeCommand_addrs h ▸ List.mem_map_of_mem hp
  obtain ⟨r, -, hr⟩ := List.mem_map.1 hmem
  exact hr ▸ hc.get_lt r

/-- A payload is one packet or two (R80). -/
theorem WritePayload.packets_length (pl : WritePayload) : pl.packets ≠ [] ∧ pl.packets.length ≤ 2 := by
  cases pl with
  | single p => simp [WritePayload.packets]
  | double p q => simp [WritePayload.packets]

/-! ## What accepting changes (R176) -/

/-- Accepting changes at most the queue, `seq`, the flags and the fault's record (R174, R194). -/
theorem exec_frame {i : Instr} {s t : State} (h : exec i s = .next t) :
    t = { s with queue := t.queue, seq := t.seq, ready := t.ready, fault := t.fault, faultBy := t.faultBy } ∧
    t.ready = false := by
  obtain ⟨-, ⟨ch, -, rfl⟩ | ⟨p, -, rfl⟩⟩ := exec_next h <;> exact ⟨rfl, rfl⟩

/-! ## ENVP with a positive finite operand (R104) -/

theorem not_zeroPattern_of_positiveFinite {fe : BitVec 32} (h : positiveFinite fe) : ¬ zeroPattern fe := h.2.2

theorem encodeCommand_envp_of_some {fe : BitVec 32} {d : Nat} (c : Cfg) (hpos : positiveFinite fe)
    (hd : envDiv c.envArith c.clockHz.toNat fe = some d) :
    encodeCommand c (.envp fe) = .payload (envPayload c d) := by
  simp only [encodeCommand, encodeEnvp, envClass_eq, if_neg (not_zeroPattern_of_positiveFinite hpos), if_pos hpos, hd]

theorem encodeCommand_envp_of_none {fe : BitVec 32} (c : Cfg) (hpos : positiveFinite fe)
    (hd : envDiv c.envArith c.clockHz.toNat fe = none) :
    encodeCommand c (.envp fe) = .refused (.envpQuotient fe) := by
  simp only [encodeCommand, encodeEnvp, envClass_eq, if_neg (not_zeroPattern_of_positiveFinite hpos), if_pos hpos, hd]

/-! ## What decides a command's outcome (R30, R193, R197) -/

/-- Only ENVP is ever refused (R104, R108). -/
theorem encodeCommand_refused {c : Cfg} {i : Instr} {r : Refusal} (h : encodeCommand c i = .refused r) :
    ∃ fe, i = .envp fe := by
  have htone (ch : Channel) (f : Nat) : encodeTone c ch f ≠ .refused r := by
    unfold encodeTone
    split <;> exact Encoded.noConfusion
  cases i with
  | envp fe => exact ⟨fe, rfl⟩
  | toneA f => exact absurd h (htone _ f)
  | toneB f => exact absurd h (htone _ f)
  | toneC f => exact absurd h (htone _ f)
  | noise f => cases h
  | envsOneShotSaw => cases h
  | envsRampDown => cases h
  | envsRampUp => cases h
  | envsRepeatedSaw => cases h
  | envsRepeatedTriangle => cases h
  | ampA m l => cases h
  | ampB m l => cases h
  | ampC m l => cases h
  | mix f => cases h

end Sys2Proof.Machine

namespace Sys2Proof.Proofs

open Sys2Proof Sys2Proof.Machine

/-- Settles O28: the dispatch table's registers row by row, each with a legal address. -/
theorem payloadsFollowTheDispatchTable : Obligations.PayloadsFollowTheDispatchTable := by
  unfold Obligations.PayloadsFollowTheDispatchTable
  intro c i pl hc h
  exact ⟨encodeCommand_addrs h, encodeCommand_cells hc h⟩

/-- Settles O29: accepting is loading the sequencer or taking the fault, and neither is a field the statement keeps. -/
theorem acceptingChangesNoLineOrCell : Obligations.AcceptingChangesNoLineOrCell := by
  unfold Obligations.AcceptingChangesNoLineOrCell
  intro i s t h
  obtain ⟨ht, hready⟩ := exec_frame h
  exact ⟨ht, hready, fun a => by rw [ht]⟩

/-- Settles O30: the encoder's three outcomes, each with what a ready block makes of it. -/
theorem commandOutcomesAreExclusive : Obligations.CommandOutcomesAreExclusive := by
  unfold Obligations.CommandOutcomesAreExclusive
  intro i s hready hfault
  cases he : encodeCommand s.cfg i with
  | refused r => exact .inl ⟨r, rfl, exec_of_refused hready he, encodeCommand_refused he⟩
  | divideByZero ch =>
    exact .inr (.inl ⟨ch, _, encodeCommand_divideByZero he, exec_of_divideByZero hready he, rfl, rfl, rfl⟩)
  | payload pl =>
    have hne (ch : Channel) : i ≠ Instr.tone ch 0 := by
      rintro rfl
      rw [encodeCommand_tone_zero] at he
      cases he
    exact .inr (.inr ⟨pl, _, rfl, exec_of_payload hready he, hfault, rfl, hne .A, hne .B, hne .C⟩)

/-- Settles O31: acceptance looks at `ready` before anything else. -/
theorem busyBlockRefusesCommands : Obligations.BusyBlockRefusesCommands := by
  unfold Obligations.BusyBlockRefusesCommands
  intro i s hready
  simp [exec_eq_present, present, hready]

/-- Settles O32: the encoder sees the constants only, so both blocks accept the same outcome of it. -/
theorem commandsIgnoreHistory : Obligations.CommandsIgnoreHistory := by
  unfold Obligations.CommandsIgnoreHistory
  intro i s s' hready hready' hcfg hqueue hqueue'
  cases he : encodeCommand s.cfg i with
  | refused r =>
    rw [exec_of_refused hready he, exec_of_refused hready' (hcfg ▸ he)]
    exact ⟨fun _ h => h, fun _ h => by cases h⟩
  | divideByZero ch =>
    rw [exec_of_divideByZero hready he, exec_of_divideByZero hready' (hcfg ▸ he)]
    refine ⟨fun _ h => (by cases h), fun t h => ?_⟩
    cases h
    exact ⟨_, rfl, hqueue'.trans hqueue.symm, fun _ => rfl, fun _ => rfl⟩
  | payload pl =>
    rw [exec_of_payload hready he, exec_of_payload hready' (hcfg ▸ he)]
    refine ⟨fun _ h => (by cases h), fun t h => ?_⟩
    cases h
    exact ⟨_, rfl, rfl, Eq.symm, Eq.symm⟩

/-- Settles O23: the table, shape by shape. -/
theorem shapeValuesAreTheirFlags : Obligations.ShapeValuesAreTheirFlags := by
  unfold Obligations.ShapeValuesAreTheirFlags
  constructor
  · intro sh
    cases sh <;> decide
  · intro sh sh'
    cases sh <;> cases sh' <;> decide

/-- Settles O26: the mask 0x3F keeps bits 0 to 5, where the channel flags are, and clears bits 6 and 7. -/
theorem mixerKeepsSixFlagsClearsTwo : Obligations.MixerKeepsSixFlagsClearsTwo := by
  unfold Obligations.MixerKeepsSixFlagsClearsTwo
  intro flags s hready
  refine ⟨_, _, exec_of_payload hready (encodeCommand_mix s.cfg flags), rfl, rfl, fun f => ?_⟩
  show (flags &&& 0x3F#8).getLsbD f.bit = _
  rw [BitVec.getLsbD_and]
  cases f with
  | tone ch => cases ch <;> exact Bool.and_true _
  | noise ch => cases ch <;> exact Bool.and_true _
  | inputA => exact Bool.and_false _
  | inputB => exact Bool.and_false _

/-- Settles O17: the two answers of `EnvDiv` are the encoder's two answers. -/
theorem envpUsesTheSelectedDivider : Obligations.EnvpUsesTheSelectedDivider := by
  unfold Obligations.EnvpUsesTheSelectedDivider
  intro fe s hready hpos
  exact ⟨fun d hd => exec_of_payload hready (encodeCommand_envp_of_some s.cfg hpos hd),
    fun hd => exec_of_refused hready (encodeCommand_envp_of_none s.cfg hpos hd)⟩

end Sys2Proof.Proofs
end

section
/-! SUPPORT. The invariant of the machine: what it says of a block between commands and of one inside a transaction, and
that it holds at reset and after every step. -/

namespace Sys2Proof.Machine

theorem transactionData_of_start {p : Packet} {s : State} (hs : s.seq = 0) : TransactionData p s :=
  (transactionData_iff hs).2 trivial

section
variable {p : Packet} {rest : List Packet} {s t : State}

/-- Inside a transaction, where no reset is requested. -/
theorem MachineInv.sending (h : MachineInv s) (hreset : s.rstReq = false) (hqueue : s.queue = p :: rest) :
    Sending p rest s where
  queue := hqueue
  notReady := by
    rw [Bool.eq_false_iff]
    intro hready
    simp [h.readyIff.1 hready] at hqueue
  noFault := by
    rw [Bool.eq_false_iff]
    intro hfault
    simp [h.faultQuiet hfault] at hqueue
  noReset := hreset
  cell := h.queueRange p (hqueue ▸ List.mem_cons_self ..)
  waitPlace hw := (h.waitPlace hw).2
  lines := h.linesOk ▸ linesFit_linesBefore s.seq
  established := (transactionData_iff rfl).1 (h.transaction p (by rw [hqueue]; rfl))

/-- The invariant of a state that follows one inside the same transaction: what is left to check is the lines and the
chip. -/
theorem MachineInv.of_sending (h : MachineInv s) (hqueue : s.queue = p :: rest) (ht : Sending p rest t)
    (hcfg : t.cfg = s.cfg) (hrecord : t.faultBy = s.faultBy) (hchip : t.chip.wf)
    (hlatch : t.addrLatch.toNat < chipCells) (hlines : t.lines = linesBefore t.seq) : MachineInv t := by
  have hfault : s.fault = false := by
    rw [Bool.eq_false_iff]
    intro hfault
    simp [h.faultQuiet hfault] at hqueue
  have hsame : t.queue = s.queue := ht.queue.trans hqueue.symm
  exact {
    config := hcfg ▸ h.config
    chipForm := hchip
    latchRange := hlatch
    readyIff := by simp [ht.notReady, ht.queue]
    queueLength := hsame ▸ h.queueLength
    queueRange := hsame ▸ h.queueRange
    faultQuiet := fun hf => by simp [ht.noFault] at hf
    faultRecord := by rw [hrecord, h.faultRecord, hfault, ht.noFault]
    waitPlace := fun hw => ⟨by simp [ht.queue], ht.waitPlace hw⟩
    seqQuiet := fun hq => by simp [ht.queue] at hq
    linesOk := hlines
    transaction := fun q hq => by
      rw [ht.queue, List.head?_cons, Option.some.injEq] at hq
      exact hq ▸ (transactionData_iff rfl).2 ht.established }

/-- A block between commands has Idle lines and waits for no transfer. -/
theorem MachineInv.between (h : MachineInv s) (hqueue : s.queue = []) :
    s.seq = 0 ∧ s.lines = linesBefore 0 ∧ s.txwait = false := by
  have hseq := h.seqQuiet hqueue
  refine ⟨hseq, hseq ▸ h.linesOk, ?_⟩
  rw [Bool.eq_false_iff]
  exact fun hw => (h.waitPlace hw).1 hqueue

/-- Between commands, with no fault, the block is ready, and conversely. -/
theorem MachineInv.queue_of_ready (h : MachineInv s) (hready : s.ready = true) : s.queue = [] := (h.readyIff.1 hready).1

/-! ## Each kind of step keeps the invariant -/

/-- A reset leaves the block between commands (R220). -/
theorem MachineInv.after_resetBlock (h : MachineInv s) : MachineInv (resetBlock s) where
  config := by
    have hcfg : (resetBlock s).cfg = s.cfg := by simp [resetBlock]
    exact hcfg ▸ h.config
  chipForm := resetBlock_chip_wf h.chipForm h.queueRange
  latchRange := by
    have hlatch : (resetBlock s).addrLatch = s.addrLatch := by simp [resetBlock]
    exact hlatch ▸ h.latchRange
  readyIff := by simp [resetBlock]
  queueLength := by simp [resetBlock]
  queueRange := by simp [resetBlock]
  faultQuiet := by simp [resetBlock]
  faultRecord := by simp [resetBlock]
  waitPlace := by simp [resetBlock]
  seqQuiet _ := rfl
  linesOk := rfl
  transaction := by simp [resetBlock]

/-- The chip's part of the invariant survives every action that the latch allows. -/
theorem MachineInv.chip_perform (h : MachineInv s) {e : Event} (ht : perform e s = .next t) :
    t.chip.wf ∧ t.addrLatch.toNat < chipCells := by
  rw [perform_chip ht, perform_addrLatch ht]
  constructor
  · split
    · exact Memory.write_wf h.chipForm h.latchRange _
    · exact h.chipForm
  · split
    · exact s.captureAddress_range h.latchRange
    · exact h.latchRange

/-- The lines after a row's action, a `Send` not yet answered included (R144). -/
theorem MachineInv.lines_perform (h : MachineInv s) (ht : perform (microAction p s.seq) s = .next t) :
    t.lines = linesAfter s.seq ∧ t.lines = linesBefore t.seq := by
  have hafter : t.lines = linesAfter s.seq := by rw [perform_lines ht, h.linesOk, microAction_drive]
  refine ⟨hafter, ?_⟩
  rw [hafter, perform_seq ht, microAction_isSend, linesAfter_eq]
  split
  case isTrue hsend => exact linesBefore_succ_of_send (by simpa using hsend)
  case isFalse => rfl

/-- After u11 the next packet's transaction is about to begin, or the command is complete (R173). -/
theorem MachineInv.after_perform_last (h : MachineInv s) (hs : Sending p rest s) (hwait : s.txwait = false)
    (hlast : s.seq = 11) (ht : perform (microAction p s.seq) s = .next t) : MachineInv t := by
  obtain ⟨⟨hqueue, hready, hfault, htxwait, -, hseq, hlines⟩, -, -⟩ := hs.after_last hwait hlast ht
  exact {
    config := (perform_keeps ht).cfg ▸ h.config
    chipForm := (h.chip_perform ht).1
    latchRange := (h.chip_perform ht).2
    readyIff := by simp [hready, hqueue, hfault]
    queueLength := by
      have := h.queueLength
      simp only [hs.queue, List.length_cons] at this
      rw [hqueue]
      omega
    queueRange := fun q hq => h.queueRange q (hs.queue ▸ List.mem_cons_of_mem _ (hqueue ▸ hq))
    faultQuiet := fun hf => by simp [hfault] at hf
    faultRecord := by rw [(perform_keeps ht).faultBy, (perform_keeps ht).fault, h.faultRecord]
    waitPlace := fun hw => by simp [htxwait] at hw
    seqQuiet := fun _ => hseq
    linesOk := hseq ▸ hlines
    transaction := fun _ _ => transactionData_of_start hseq }

theorem MachineInv.after_perform (h : MachineInv s) (hs : Sending p rest s) (hwait : s.txwait = false)
    (ht : perform (microAction p s.seq) s = .next t) : MachineInv t := by
  by_cases hlast : s.seq = 11
  · exact h.after_perform_last hs hwait hlast ht
  · exact h.of_sending hs.queue (hs.after_perform hwait hlast ht) (perform_keeps ht).cfg (perform_keeps ht).faultBy
      (h.chip_perform ht).1 (h.chip_perform ht).2 (h.lines_perform ht).2

/-- A moment of the wait keeps it, with the answer or without (R148). -/
theorem MachineInv.after_waitTransfer (h : MachineInv s) (hs : Sending p rest s) (hwait : s.txwait = true) :
    MachineInv (waitTransfer s) := by
  rcases waitTransfer_eq_txDone_or s with hw | ⟨bus, ctr, plan, hw⟩ <;> rw [hw]
  · refine h.of_sending hs.queue (hs.after_txDone hwait) s.floatBus_cfg s.floatBus_faultBy ?_ ?_ ?_
    · exact s.floatBus_chip ▸ h.chipForm
    · exact s.floatBus_addrLatch ▸ h.latchRange
    · show s.floatBus.lines = linesBefore (s.seq + 1)
      rw [s.floatBus_lines, h.linesOk, linesBefore_succ_of_send (hs.waitPlace hwait)]
  · exact h.of_sending hs.queue (hs.after_waiting hwait bus ctr plan) rfl rfl h.chipForm h.latchRange h.linesOk

/-- Taking the word from the port is no part of the invariant. -/
theorem MachineInv.takeWord (h : MachineInv s) (words : List CmdWord) : MachineInv { s with cmdIn := words } := by
  obtain ⟨h1, h2, h3, h4, h5, h6, h7, h8, h9, h10, h11, h12⟩ := h
  exact ⟨h1, h2, h3, h4, h5, h6, h7, h8, h9, h10, h11, fun p hp => by
    obtain ⟨k1, k2, k3, k4, k5, k6, k7, k8⟩ := h12 p hp
    exact ⟨k1, k2, k3, k4, k5, k6, k7, k8⟩⟩

/-- Accepting a command keeps it: the payload's packets name cells, and the fault leaves the queue empty (R174,
R194). -/
theorem MachineInv.after_exec (h : MachineInv s) {i : Instr} (hfault : s.fault = false) (ht : exec i s = .next t) :
    MachineInv t := by
  obtain ⟨hready, hnext⟩ := exec_next ht
  have hqueue := h.queue_of_ready hready
  obtain ⟨hseq, hlines, hwait⟩ := h.between hqueue
  obtain ⟨ch, -, rfl⟩ | ⟨pl, hpl, rfl⟩ := hnext
  · exact {
      config := h.config
      chipForm := h.chipForm
      latchRange := h.latchRange
      readyIff := by simp [raiseDivideByZero_eq]
      queueLength := h.queueLength
      queueRange := h.queueRange
      faultQuiet := fun _ => hqueue
      faultRecord := rfl
      waitPlace := h.waitPlace
      seqQuiet := h.seqQuiet
      linesOk := h.linesOk
      transaction := fun _ _ => transactionData_of_start hseq }
  · obtain ⟨hne, hlen⟩ := pl.packets_length
    exact {
      config := h.config
      chipForm := h.chipForm
      latchRange := h.latchRange
      readyIff := by simp [acceptPayload_eq, hne]
      queueLength := hlen
      queueRange := encodeCommand_cells h.config.2 hpl
      faultQuiet := fun hf => by simp [acceptPayload_eq, hfault] at hf
      faultRecord := h.faultRecord
      waitPlace := fun hw => by simp [acceptPayload_eq, hwait] at hw
      seqQuiet := fun _ => rfl
      linesOk := hlines
      transaction := fun _ _ => transactionData_of_start rfl }

/-- Every step keeps the invariant. -/
theorem MachineInv.after_step (h : MachineInv s) (ht : step s = .next t) : MachineInv t := by
  obtain ⟨-, rfl⟩ | ⟨hreset, hfault, hcase⟩ := step_cases ht
  · exact h.after_resetBlock
  obtain ⟨hwait, rfl⟩ | ⟨-, -, -, rfl⟩ | ⟨-, -, cw, words, i, -, -, hexec⟩ | ⟨hwait, -, p, rest, hqueue, hperf⟩ := hcase
  · obtain ⟨p, rest, hqueue⟩ := List.exists_cons_of_ne_nil (h.waitPlace hwait).1
    exact h.after_waitTransfer (h.sending hreset hqueue) hwait
  · exact h
  · exact (h.takeWord words).after_exec hfault hexec
  · exact h.after_perform (h.sending hreset hqueue) hwait hperf

end

theorem machineInv_reset : MachineInv State.reset where
  config := by decide
  chipForm := Memory.powerOn_wf
  latchRange := by decide
  readyIff := by decide
  queueLength := by decide
  queueRange := by decide
  faultQuiet := fun _ => rfl
  faultRecord := rfl
  waitPlace := fun hw => nomatch hw
  seqQuiet := fun _ => rfl
  linesOk := rfl
  transaction := fun _ _ => transactionData_of_start rfl

end Sys2Proof.Machine

namespace Sys2Proof.Proofs

open Sys2Proof Sys2Proof.Machine

/-- Settles O3: clause by clause. -/
theorem resetMeetsInvariant : Obligations.ResetMeetsInvariant := machineInv_reset

/-- Settles O4: a reset, a moment of the wait, an acceptance and a micro-step each keep the invariant. -/
theorem stepKeepsInvariant : Obligations.StepKeepsInvariant := fun _ _ h ht => h.after_step ht

end Sys2Proof.Proofs
end

section
/-! SUPPORT. The step as a whole (43_facade.md, 60_exceptions.md, 70_reset_and_hazards.md): what the steps that are no
action of the sequencer leave unchanged, and what a reset leaves. -/

namespace Sys2Proof.Machine

/-! ## The frames of waiting and reset -/

/-- A moment of the wait changes at most the port, the shift register, the bus, `seq` and the answers to come. -/
theorem waitTransfer_frame (s : State) :
    waitTransfer s = { s with
      txwait := (waitTransfer s).txwait, seq := (waitTransfer s).seq, shiftReg := (waitTransfer s).shiftReg
      txPlan := (waitTransfer s).txPlan, busByte := (waitTransfer s).busByte
      freeCtr := (waitTransfer s).freeCtr } := by
  rcases waitTransfer_cases s with h | ⟨plan, h⟩ <;> simp [h, txDone]

/-- It lets `seq` advance exactly when it ends the wait (R25, R148). -/
theorem waitTransfer_seq (s : State) :
    (waitTransfer s).seq = s.seq + 1 ∧ (waitTransfer s).txwait = false ∨
    (waitTransfer s).seq = s.seq ∧ (waitTransfer s).txwait = s.txwait := by
  rcases waitTransfer_cases s with h | ⟨plan, h⟩ <;> rw [h]
  · exact .inl ⟨rfl, rfl⟩
  · exact .inr ⟨s.floatBus_seq, s.floatBus_txwait⟩

/-- What a reset sets and what it leaves, beside the chip and the bus (R220). -/
theorem resetBlock_frame (s : State) :
    resetBlock s = { s with
      dir := .low, c1 := .low, c2 := .high, le := .high, seq := 0, txwait := false, queue := [], ready := true
      fault := false, faultBy := none, rstReq := false
      txPlan := if s.txwait then s.txPlan.tail else s.txPlan
      chip := (resetBlock s).chip, busByte := (resetBlock s).busByte, freeCtr := (resetBlock s).freeCtr } := by
  simp [resetBlock]

/-- A bus at which `le` is High keeps its byte in a reset. -/
theorem resetBlock_busByte {s : State} (h : s.le = .high) : (resetBlock s).busByte = s.busByte := by
  show s.floatBus.freeAbandonedCell.busByte = s.busByte
  rw [State.freeAbandonedCell_busByte, s.floatBus_of_le_high h]

theorem resetBlock_chip_of_quiet {s : State} (h : s.queue = [] ∨ s.seq = 0) : (resetBlock s).chip = s.chip := by
  show s.floatBus.freeAbandonedCell.chip = s.chip
  rw [State.freeAbandonedCell_of_quiet _ (by simpa using h), s.floatBus_chip]

/-- The cell of an abandoned transaction holds a free byte (U15). -/
theorem resetBlock_read_abandoned {s : State} {p : Packet} {rest : List Packet} (hq : s.queue = p :: rest)
    (hs : s.seq ≠ 0) : ∃ v, (resetBlock s).chip.read p.addr.toNat = some v := by
  show ∃ v, s.floatBus.freeAbandonedCell.chip.read p.addr.toNat = some v
  rw [State.freeAbandonedCell_chip _ (by simpa using hq) (by simpa using hs), Memory.read_write_same]
  exact ⟨_, rfl⟩

/-! ## Which steps act on the surroundings -/

/-- Neither the lines nor the chip nor the record of events differ. -/
structure Silent (s t : State) : Prop where
  trace : t.trace = s.trace
  lines : t.lines = s.lines
  chip : t.chip = s.chip
  addrLatch : t.addrLatch = s.addrLatch
  cfg : t.cfg = s.cfg

/-- Apart from reset, a step is silent or it is a micro-step of the head packet (R12, R144). -/
theorem step_silent_or_perform {s t : State} (h : step s = .next t) (hreset : s.rstReq = false) :
    Silent s t ∨ ∃ p rest, Busy p rest s ∧ perform (microAction p s.seq) s = .next t := by
  obtain ⟨hr, -⟩ | ⟨-, hfault, hcase⟩ := step_cases h
  · simp [hreset] at hr
  obtain ⟨-, rfl⟩ | ⟨-, -, -, rfl⟩ | ⟨-, -, cw, words, i, -, -, hexec⟩ |
    ⟨hwait, hready, p, rest, hqueue, hperf⟩ := hcase
  · rw [waitTransfer_frame]
    exact .inl ⟨rfl, rfl, rfl, rfl, rfl⟩
  · exact .inl ⟨rfl, rfl, rfl, rfl, rfl⟩
  · rw [(exec_frame hexec).1]
    exact .inl ⟨rfl, rfl, rfl, rfl, rfl⟩
  · exact .inr ⟨p, rest, ⟨hqueue, hready, hfault, hwait, hreset⟩, hperf⟩

theorem acceptStep_of_none {s : State} (hcmd : s.cmdIn = []) : acceptStep s = .next s := by
  simp [acceptStep, State.fetchCommand, hcmd]

theorem acceptStep_of_decode {s : State} {cw : CmdWord} {rest : List CmdWord} {i : Instr} (hcmd : s.cmdIn = cw :: rest)
    (hi : decode cw = .ok i) : acceptStep s = exec i { s with cmdIn := rest } := by
  simp [acceptStep, State.fetchCommand, hcmd, hi]

/-- A ready block with nothing presented waits (R221). -/
theorem step_of_nothing_presented {s : State} (hreset : s.rstReq = false) (hfault : s.fault = false)
    (hwait : s.txwait = false) (hready : s.ready = true) (hcmd : s.cmdIn = []) : step s = .next s :=
  (step_of_ready hreset hfault hwait hready).trans (acceptStep_of_none hcmd)

/-- A ready block accepts the command presented (R174). -/
theorem step_of_presented {s : State} {cw : CmdWord} {rest : List CmdWord} {i : Instr} (hreset : s.rstReq = false)
    (hfault : s.fault = false) (hwait : s.txwait = false) (hready : s.ready = true) (hcmd : s.cmdIn = cw :: rest)
    (hi : decode cw = .ok i) : step s = exec i { s with cmdIn := rest } :=
  (step_of_ready hreset hfault hwait hready).trans (acceptStep_of_decode hcmd hi)

/-- Accepting a command never stops with a fault (R194, R205). -/
theorem acceptStep_ne_fault (s : State) (f : Fault) : acceptStep s ≠ .fault f := by
  cases hcmd : s.cmdIn with
  | nil => simp [acceptStep_of_none hcmd]
  | cons cw rest =>
    cases hi : decode cw with
    | error e => simp [acceptStep_of_decode_error hcmd hi]
    | ok i =>
      rw [acceptStep_of_decode hcmd hi, exec_eq_present]
      exact present_ne_fault _ _ _

theorem step_of_reset {s : State} (hreset : s.rstReq = true) : step s = .next (resetBlock s) := by
  simp [step, hreset]

theorem step_of_fault {s : State} (hreset : s.rstReq = false) (hfault : s.fault = true) :
    step s = .fault (.divideByZero s.faultBy) := by
  simp [step, hreset, hfault]

/-- In a state of the invariant with no fault no step stops with one: a busy block has a packet, and when the chip
stores, its latch holds a register address. -/
theorem MachineInv.step_ne_fault {s : State} (h : MachineInv s) (hfault : s.fault = false) (f : Fault) :
    step s ≠ .fault f := by
  cases hreset : s.rstReq with
  | true => simp [step_of_reset hreset]
  | false =>
    cases hwait : s.txwait with
    | true => simp [step_of_waiting ⟨hwait, hfault, hreset⟩]
    | false =>
      cases hready : s.ready with
      | true =>
        rw [step_of_ready hreset hfault hwait hready]
        exact acceptStep_ne_fault s f
      | false =>
        have hqueue : s.queue ≠ [] := fun hq => by simp [h.readyIff.2 ⟨hq, hfault⟩] at hready
        obtain ⟨p, rest, hqueue⟩ := List.exists_cons_of_ne_nil hqueue
        obtain ⟨t, ht, -⟩ := (h.sending hreset hqueue).step_completes hwait
        simp [ht]

/-! ## The chip's cells and its latch (R36, R58) -/

theorem Memory.powerOn_read {a : Nat} (ha : a < chipCells) : Memory.powerOn.read a = some (Config.powerOnCell a) := by
  interval_cases a <;> rfl

/-- Everything a read after a write can give (R58). -/
theorem Memory.read_write (m : Memory) (a b : Nat) (v : Byte) :
    (m.write a v).read b = if b = a then some v else m.read b := by
  split
  case isTrue h => rw [h, Memory.read_write_same]
  case isFalse h => exact Memory.read_write_other m a b v h

/-- The chip's latch keeps its address unless a register address is on the bus in LatchAddress (R58). -/
theorem State.captureAddress_of_not {s : State}
    (h : ¬ (s.busState = some .latchAddress ∧ s.busByte.toNat < chipCells)) : s.captureAddress = s :=
  if_neg h

end Sys2Proof.Machine

namespace Sys2Proof.Proofs

open Sys2Proof Sys2Proof.Machine

/-- Settles O1: the reset state's fields, and for the cells the 14 of power-on. -/
theorem resetLeavesIdleAndReady : Obligations.ResetLeavesIdleAndReady := by
  unfold Obligations.ResetLeavesIdleAndReady
  have haddr : State.reset.cfg.regAddr.wf := by decide
  exact ⟨rfl, rfl, rfl, rfl, rfl, rfl, rfl, rfl, fun r => Memory.powerOn_read (haddr.get_lt r)⟩

/-- Settles O2: the frame of the reset action, and its three effects on the chip and the bus. -/
theorem resetActionRestoresTheBlock : Obligations.ResetActionRestoresTheBlock := by
  unfold Obligations.ResetActionRestoresTheBlock
  intro s hreset
  refine ⟨resetBlock s, step_of_reset hreset, rfl, rfl, rfl, rfl, rfl, rfl, rfl, rfl, ?_, ?_, ?_, ?_, ?_,
    resetBlock_busByte, resetBlock_chip_of_quiet, fun p rest hq hs => resetBlock_read_abandoned hq hs,
    fun p rest a hq ha => resetBlock_read_other fun q hp => ?_⟩
  case refine_6 =>
    rw [hq, List.head?_cons, Option.some.injEq] at hp
    exact hp ▸ ha
  all_goals rw [resetBlock_frame]

/-- Settles O5: a fault flag that is set has its record, and a clear one means no stop. -/
theorem onlyTheDivisionFaultStops : Obligations.OnlyTheDivisionFaultStops := by
  unfold Obligations.OnlyTheDivisionFaultStops
  intro s f h hstep
  have hfault : s.fault = true := by
    by_contra hf
    exact h.step_ne_fault (Bool.eq_false_iff.2 hf) f hstep
  have hreset : s.rstReq = false := by
    by_contra hr
    rw [step_of_reset (Bool.eq_true_of_not_eq_false hr)] at hstep
    cases hstep
  obtain ⟨ch, hch⟩ := Option.isSome_iff_exists.1 (h.faultRecord.trans hfault)
  rw [step_of_fault hreset hfault, Host.Outcome.fault.injEq] at hstep
  exact ⟨hfault, hreset, ch, hch, hch ▸ hstep.symm⟩

/-- Settles O6: a reset, the silent steps and the sequencer's actions, in turn. -/
theorem stepKeepsConfiguration : Obligations.StepKeepsConfiguration := by
  unfold Obligations.StepKeepsConfiguration
  intro s t h
  cases hreset : s.rstReq with
  | true =>
    rw [step_of_reset hreset, Host.Outcome.next.injEq] at h
    rw [← h, resetBlock_frame]
  | false =>
    obtain hsilent | ⟨p, rest, -, hperf⟩ := step_silent_or_perform h hreset
    · exact hsilent.cfg
    · exact (perform_keeps hperf).cfg

/-- Settles O12: the step is the acceptance, and that runs what it decodes. -/
theorem stepRunsTheDecodedCommand : Obligations.StepRunsTheDecodedCommand := by
  unfold Obligations.StepRunsTheDecodedCommand
  intro s cw rest i hreset hfault hwait hready hcmd hi
  exact step_of_presented hreset hfault hwait hready hcmd hi

/-- Settles O13: the step is the acceptance, which finds no word. -/
theorem readyBlockWaitsForACommand : Obligations.ReadyBlockWaitsForACommand := by
  unfold Obligations.ReadyBlockWaitsForACommand
  intro s hreset hfault hwait hready hcmd
  exact step_of_nothing_presented hreset hfault hwait hready hcmd

/-- Settles O33: a reset request is looked at before the fault, and the fault before anything else. -/
theorem faultIsTerminalUntilReset : Obligations.FaultIsTerminalUntilReset := by
  unfold Obligations.FaultIsTerminalUntilReset
  intro s hfault
  exact ⟨fun hreset => step_of_fault hreset hfault, fun hreset => ⟨_, step_of_reset hreset, rfl, rfl⟩⟩

/-- Settles O34: of the steps that can start without the fault, only accepting a division by zero sets it. -/
theorem onlyToneAtZeroRaisesTheFault : Obligations.OnlyToneAtZeroRaisesTheFault := by
  unfold Obligations.OnlyToneAtZeroRaisesTheFault
  intro s t h hs ht
  obtain ⟨-, rfl⟩ | ⟨-, -, hcase⟩ := step_cases h
  · cases ht
  obtain ⟨-, rfl⟩ | ⟨-, -, -, rfl⟩ | ⟨-, -, cw, rest, i, hcmd, hi, hexec⟩ | ⟨-, -, p, rest, -, hperf⟩ := hcase
  · rw [waitTransfer_frame] at ht
    exact absurd ht (by simp [hs])
  · exact absurd ht (by simp [hs])
  · obtain ⟨-, ⟨ch, hch, rfl⟩ | ⟨pl, -, rfl⟩⟩ := exec_next hexec
    · exact ⟨cw, rest, ch, hcmd, encodeCommand_divideByZero hch ▸ hi, rfl⟩
    · exact absurd ht (by simp [acceptPayload_eq, hs])
  · exact absurd ((perform_keeps hperf).fault.symm.trans ht) (by simp [hs])

/-- Settles O36: the chip's half of each of the sequencer's four kinds of action. -/
theorem chipFollowsTheBusEvents : Obligations.ChipFollowsTheBusEvents := by
  unfold Obligations.ChipFollowsTheBusEvents
  refine ⟨fun b s t h hb => ?_, fun s t h => ?_, fun l s => ?_, fun b s => ?_⟩
  · obtain ⟨rfl, rfl⟩ | ⟨rfl, rfl⟩ | ⟨rfl, -, -⟩ := enter_next h
    · refine ⟨s.captureAddress_chip, fun _ hbus hbyte => ?_, fun hnot => ?_⟩
      · exact s.captureAddress_of_latchAddress hbus (Nat.lt_succ_of_le hbyte)
      · show s.captureAddress.addrLatch = s.addrLatch
        rw [State.captureAddress_of_not fun ⟨hbus, hbyte⟩ => hnot ⟨rfl, hbus, Nat.le_of_lt_succ hbyte⟩]
    · exact ⟨rfl, fun hb => (by cases hb), fun _ => rfl⟩
    · exact absurd rfl hb
  · obtain ⟨hb, -⟩ | ⟨hb, -⟩ | ⟨-, -, rfl⟩ := enter_next h
    · cases hb
    · cases hb
    · refine ⟨rfl, fun a => ?_⟩
      exact Memory.read_write s.chip s.addrLatch.toNat a s.busByte
  · cases l <;> simp [driveLE]
  · simp [startSend]

/-- Settles O43: a reset and the silent steps record nothing, a micro-step its own event. -/
theorem stepsRecordAtMostOneEvent : Obligations.StepsRecordAtMostOneEvent := by
  unfold Obligations.StepsRecordAtMostOneEvent
  intro s t h
  cases hreset : s.rstReq with
  | true =>
    rw [step_of_reset hreset, Host.Outcome.next.injEq] at h
    left
    rw [← h, resetBlock_frame]
  | false =>
    obtain hsilent | ⟨p, rest, hbusy, hperf⟩ := step_silent_or_perform h hreset
    · exact .inl hsilent.trace
    · exact .inr ⟨p, rest, hbusy, perform_trace hperf⟩

/-- Settles O55: the canonical form lists exactly the 14 cells, and every register's address is one of them. -/
theorem everyRegisterHoldsAByte : Obligations.EveryRegisterHoldsAByte := by
  unfold Obligations.EveryRegisterHoldsAByte
  intro s h
  have hcells := Memory.exists_read_iff h.chipForm
  exact ⟨hcells, fun r => (hcells _).2 (h.config.2.get_lt r)⟩

end Sys2Proof.Proofs
end

section
/-! SUPPORT. What one step of the sequencer is, in the terms of the micro-step table (42_bus_sequencer.md R144 to
R155). -/

namespace Sys2Proof.Machine

/-- The bus states before and after each row, and whether the row enters one (R147). -/
theorem microAction_busMoves (p : Packet) (k : Fin 12) :
    ∃ b c, busStateOfLines (linesBefore k) = some b ∧
      busStateOfLines (linesAfter k) = some c ∧
      (microAction p k = .setBus c ∧ (b, c) ∈ busMoves ∨ b = c ∧ ∀ d, microAction p k ≠ .setBus d) := by
  match k with
  | 0 | 1 | 5 | 6 | 10 | 11 => exact ⟨_, _, rfl, rfl, .inl ⟨rfl, by decide⟩⟩
  | 2 | 3 | 4 | 7 | 8 | 9 => exact ⟨_, _, rfl, rfl, .inr ⟨rfl, fun d hd => by cases hd⟩⟩

/-- Rows of two packets are the same action but for the byte of a `Send` (R152). -/
theorem microAction_eq_or_send (p p' : Packet) (k : Fin 12) :
    microAction p k = microAction p' k ∨ ∃ b b', microAction p k = .send b ∧ microAction p' k = .send b' := by
  match k with
  | 0 | 1 | 2 | 4 | 5 | 6 | 7 | 9 | 10 | 11 => exact .inl rfl
  | 3 | 8 => exact .inr ⟨_, _, rfl, rfl⟩

/-- So they drive the same lines (R152). -/
theorem microAction_drive_congr (p p' : Packet) (k : Fin 12) (ls : Level × Level × Level × Level) :
    (microAction p k).drive ls = (microAction p' k).drive ls := by
  obtain h | ⟨b, b', h, h'⟩ := microAction_eq_or_send p p' k
  · rw [h]
  · rw [h, h']; rfl

/-- Two records of events that grew by one event differ in that event. -/
theorem trace_append_ne {es : List Event} {e : Event} (d : Event) (h : e ≠ d) : es ++ [e] ≠ es ++ [d] := by
  simpa using h

/-- The lines show one of the three bus states (R22, R23). -/
def State.showsBusState (s : State) : Prop := ∃ b : BusState, s.triple = b.levels

/-- Every step keeps that, whatever the state: only bus states are ever driven (R141, D11). -/
theorem State.showsBusState.after_step {s t : State} (hs : s.showsBusState) (h : step s = .next t) :
    t.showsBusState := by
  obtain ⟨b, hb⟩ := hs
  cases hreset : s.rstReq with
  | true =>
    rw [step_of_reset hreset, Host.Outcome.next.injEq] at h
    exact ⟨.idle, h ▸ rfl⟩
  | false =>
    have htriple (ls : Level × Level × Level × Level) (hlines : t.lines = ls) : t.triple = (ls.1, ls.2.1, ls.2.2.1) :=
      hlines ▸ rfl
    obtain hsilent | ⟨p, rest, -, hperf⟩ := step_silent_or_perform h hreset
    · exact ⟨b, (htriple _ hsilent.lines).trans hb⟩
    · have hlines := perform_lines hperf
      cases hm : microAction p s.seq with
      | setBus c => exact ⟨c, htriple _ (hm ▸ hlines)⟩
      | setLE l => exact ⟨b, (htriple _ (hm ▸ hlines)).trans hb⟩
      | send byte => exact ⟨b, (htriple _ (hm ▸ hlines)).trans hb⟩

section
variable {p : Packet} {rest : List Packet} {s t : State}

/-- The bus byte after the rows where the table gives one. -/
theorem MachineInv.busByte_perform (h : MachineInv s) (hbusy : Busy p rest s)
    (ht : perform (microAction p s.seq) s = .next t) :
    (s.seq = 0 ∨ s.seq = 1 → t.busByte = s.busByte) ∧
    (s.seq = 4 ∨ s.seq = 5 ∨ s.seq = 6 → t.busByte = addressByte p.addr) ∧
    (s.seq = 9 ∨ s.seq = 10 ∨ s.seq = 11 → t.busByte = p.val) := by
  have hs := h.sending hbusy.noReset hbusy.queue
  have hest := hs.established
  have hnext := hs.established_perform hbusy.noWait ht
  rw [perform_seq ht] at hnext
  generalize s.seq = k at ht hest hnext ⊢
  refine ⟨?_, ?_, ?_⟩
  · rintro (rfl | rfl) <;> exact perform_setBus_busByte ht
  · rintro (rfl | rfl | rfl)
    · exact hnext
    · exact hnext.2
    · exact hnext.2
  · rintro (rfl | rfl | rfl)
    · exact hnext.2
    · exact hnext.2.1
    · exact (perform_setBus_busByte ht).trans hest.2.1

/-- `u11` of the last packet is the only micro-step that makes the block ready (R173). -/
theorem ready_of_perform (hqueue : s.queue = p :: rest) (hbusy : s.ready = false)
    (ht : perform (microAction p s.seq) s = .next t) (hready : t.ready = true) : s.seq = 11 ∧ rest = [] := by
  obtain ⟨⟨-, hlast⟩, hrest⟩ : ((microAction p s.seq).isSend = false ∧ s.seq = 11) ∧ rest = [] := by
    simpa [perform_ready ht, hbusy, hqueue] using hready
  exact ⟨hlast, hrest⟩

end

end Sys2Proof.Machine

namespace Sys2Proof.Proofs

open Sys2Proof Sys2Proof.Machine

/-- Settles O37: the row's action completes, and each column of the table is a fact about that action. -/
theorem microStepFollowsTheTable : Obligations.MicroStepFollowsTheTable := by
  unfold Obligations.MicroStepFollowsTheTable
  intro s p rest h hbusy
  obtain ⟨t, hstep, ht⟩ := (h.sending hbusy.noReset hbusy.queue).step_completes hbusy.noWait
  obtain ⟨hbus01, hbus456, hbus9⟩ := h.busByte_perform hbusy ht
  have hsend := microAction_isSend p s.seq
  have hseq := perform_seq ht
  have hwait := perform_txwait ht
  refine ⟨t, hstep, (h.lines_perform ht).1, perform_trace ht, hbus01, hbus456, hbus9, fun h3 => ?_, fun h8 => ?_,
    fun h3 h8 => ?_, fun h11 => ?_, fun h11 => ?_, (perform_keeps ht).fault.trans hbusy.noFault,
    (perform_keeps ht).cmdIn⟩
  · rw [h3] at ht hseq hwait
    exact ⟨by simpa [microAction, Event.isSend] using hwait, perform_send_txByte ht, hseq⟩
  · rw [h8] at ht hseq hwait
    exact ⟨by simpa [microAction, Event.isSend] using hwait, perform_send_txByte ht, hseq⟩
  · simp [hwait, hseq, hsend, h3, h8, hbusy.noWait]
  · simp [perform_queue ht, perform_ready ht, h11, hbusy.notReady]
  · simp [perform_queue ht, perform_ready ht, microAction_isSend, h11, hbusy.notReady, hbusy.queue]

/-- Settles O38: the silent steps leave the chip, and of the actions only `u10` stores, in the cell that the latch has
taken from the bus. -/
theorem onlyWriteDataChangesTheChip : Obligations.OnlyWriteDataChangesTheChip := by
  unfold Obligations.OnlyWriteDataChangesTheChip
  intro s t h hreset hstep
  refine ⟨fun p rest hqueue hseq a => ?_, fun hno => ?_⟩
  · have hs := h.sending hreset hqueue
    have hwait : s.txwait = false := Bool.eq_false_iff.2 fun hw => by
      have := hs.waitPlace hw
      simp [hseq] at this
    have hperf := (step_of_busy (hs.busy hwait)).symm.trans hstep
    have hest := hs.established
    rw [hseq] at hest
    rw [perform_chip hperf, if_pos ((microAction_eq_writeData p s.seq).2 hseq), hest.1, hest.2]
    exact Memory.read_write ..
  · obtain hsilent | ⟨p, rest, hbusy, hperf⟩ := step_silent_or_perform hstep hreset
    · exact hsilent.chip
    · rw [perform_chip hperf, if_neg]
      rw [microAction_eq_writeData]
      exact hno.resolve_left (by simp [hbusy.queue])

/-- Settles O39: the silent steps leave the lines and record nothing; the micro-steps are the rows of the table. -/
theorem busStateMovesAreTheFive : Obligations.BusStateMovesAreTheFive := by
  unfold Obligations.BusStateMovesAreTheFive
  intro s t h hreset hstep
  obtain hsilent | ⟨p, rest, -, hperf⟩ := step_silent_or_perform hstep hreset
  · obtain ⟨b, -, hb, -⟩ := microAction_busMoves ⟨0, 0⟩ s.seq
    rw [s.busState_eq, t.busState_eq, hsilent.lines, h.linesOk, hsilent.trace]
    exact ⟨b, b, hb, hb, .inr ⟨rfl, fun d => by simp⟩⟩
  · obtain ⟨b, c, hb, hc, hmove⟩ := microAction_busMoves p s.seq
    rw [s.busState_eq, t.busState_eq, h.linesOk, (h.lines_perform hperf).1, perform_trace hperf]
    refine ⟨b, c, hb, hc, hmove.imp ?_ ?_⟩
    · rintro ⟨he, hmem⟩
      exact ⟨by rw [he], hmem⟩
    · rintro ⟨hbc, hne⟩
      exact ⟨hbc, fun d => trace_append_ne _ (hne d)⟩

/-- Settles O40: at reset the lines show Idle, and every step keeps that they show a bus state. -/
theorem linesAlwaysShowABusState : Obligations.LinesAlwaysShowABusState := by
  unfold Obligations.LinesAlwaysShowABusState
  intro c cmds plan k t hrun
  obtain ⟨b, hb⟩ := runFor_invariant (P := State.showsBusState) (fun _ _ => State.showsBusState.after_step)
    ⟨.idle, rfl⟩ hrun
  obtain ⟨hdir, hc1, hc2⟩ : t.dir = b.levels.1 ∧ t.c1 = b.levels.2.1 ∧ t.c2 = b.levels.2.2 := by
    simpa [State.triple, Prod.ext_iff] using hb
  rw [hb, hdir, hc1, hc2]
  cases b <;> decide

/-- Settles O41: both steps are the same row, whose action depends on the packet only in the byte of a `Send`. -/
theorem sequenceIgnoresTheData : Obligations.SequenceIgnoresTheData := by
  unfold Obligations.SequenceIgnoresTheData
  intro s s' t t' p p' rest rest' hbusy hbusy' hseq hlines ht ht'
  rw [step_of_busy hbusy] at ht
  rw [step_of_busy hbusy', ← hseq] at ht'
  refine ⟨?_, ?_, ?_, _, _, perform_trace ht, perform_trace ht', microAction_eq_or_send p p' s.seq⟩
  · rw [perform_lines ht, perform_lines ht', hlines, microAction_drive_congr]
  · rw [perform_seq ht, perform_seq ht', hseq, microAction_isSend, microAction_isSend]
  · rw [perform_txwait ht, perform_txwait ht', hbusy.noWait, hbusy'.noWait, microAction_isSend, microAction_isSend]

/-- Settles O42: a moment of the wait and a micro-step hold `seq` or advance it; an acceptance finds it at 0. -/
theorem seqNeverJumps : Obligations.SeqNeverJumps := by
  unfold Obligations.SeqNeverJumps
  intro s t h hreset hstep
  obtain ⟨hr, -⟩ | ⟨-, -, hcase⟩ := step_cases hstep
  · simp [hreset] at hr
  obtain ⟨-, rfl⟩ | ⟨-, -, -, rfl⟩ | ⟨-, hready, cw, words, i, -, -, hexec⟩ | ⟨hwait, -, p, rest, -, hperf⟩ := hcase
  · obtain ⟨hs, hw⟩ | ⟨hs, -⟩ := waitTransfer_seq s
    · exact ⟨.inr hs, fun hw' => by simp [hw] at hw'⟩
    · exact ⟨.inl hs, fun _ => hs⟩
  · exact ⟨.inl rfl, fun _ => rfl⟩
  · have hseq : t.seq = s.seq := by
      obtain ⟨-, ⟨ch, -, rfl⟩ | ⟨pl, -, rfl⟩⟩ := exec_next hexec
      · rfl
      · exact (h.between (h.queue_of_ready hready)).1.symm
    exact ⟨.inl hseq, fun _ => hseq⟩
  · rw [perform_seq hperf, perform_txwait hperf, hwait]
    cases (microAction p s.seq).isSend with
    | true => exact ⟨.inl rfl, fun _ => rfl⟩
    | false => exact ⟨.inr rfl, fun hw => by cases hw⟩

/-- Settles O44: of the steps that can start with `ready` clear, only u11 of the last packet sets it. -/
theorem readyReturnsOnlyAtTheLastStep : Obligations.ReadyReturnsOnlyAtTheLastStep := by
  unfold Obligations.ReadyReturnsOnlyAtTheLastStep
  intro s t h hreset hbusy hstep hready
  obtain ⟨hr, -⟩ | ⟨-, hfault, hcase⟩ := step_cases hstep
  · simp [hreset] at hr
  obtain ⟨-, rfl⟩ | ⟨-, hr, -⟩ | ⟨-, hr, -⟩ | ⟨hwait, -, p, rest, hqueue, hperf⟩ := hcase
  · rw [waitTransfer_frame] at hready
    exact absurd hready (by simp [hbusy])
  · simp [hbusy] at hr
  · simp [hbusy] at hr
  · obtain ⟨hlast, rfl⟩ := ready_of_perform hqueue hbusy hperf hready
    have hsend : (microAction p s.seq).isSend = false := by rw [hlast]; rfl
    have hlines : t.lines = linesBefore 0 := by rw [(h.lines_perform hperf).1, hlast]; rfl
    refine ⟨p, hqueue, hlast, hwait, ?_, ?_, ?_, ?_, ?_⟩
    · rw [perform_queue hperf, if_pos ⟨hsend, hlast⟩, hqueue]; rfl
    · rw [perform_txwait hperf, hwait, hsend]; rfl
    · rw [t.busState_eq, hlines]; rfl
    · exact congrArg (fun ls : Level × Level × Level × Level => ls.2.2.2) hlines
    · exact (h.busByte_perform ⟨hqueue, hbusy, hfault, hwait, hreset⟩ hperf).2.2 (.inr (.inr hlast))

end Sys2Proof.Proofs
end

section
/-! SUPPORT. Isolation (10_state.md R32, 20_memory.md R55): AYW's half of every step is a function of AYW's half of the
state. -/

namespace Sys2Proof.Machine

/-- The state without what AYW cannot see: the chip, its latch, the external latch and shift register, and the model's
counter. -/
def State.erase (s : State) : State :=
  { s with chip := [], addrLatch := 0, busByte := 0, shiftReg := 0, freeCtr := 0 }

/-- Two states agree on AYW's half when they are equal without the rest. -/
theorem sameBlock_iff (s t : State) : sameBlock s t ↔ s.erase = t.erase := by
  constructor
  · intro h
    rw [h]
    rfl
  · cases s
    cases t
    simp +contextual [sameBlock, State.erase]

/-- A state that agrees with `s` is `s` with another chip, latch, bus, shift register and counter. -/
theorem sameBlock.exists_eq {s t : State} (h : sameBlock s t) : ∃ chip latch bus shift ctr,
    t = { s with chip := chip, addrLatch := latch, busByte := bus, shiftReg := shift, freeCtr := ctr } :=
  ⟨_, _, _, _, _, h⟩

/-! ## Each operation of a step, on AYW's half -/

theorem erase_advance (s : State) : (advance s).erase = advance s.erase := by
  by_cases hs : s.seq = 11
  · rw [advance_of_eq hs, advance_of_eq (s := s.erase) hs]; rfl
  · rw [advance_of_ne hs, advance_of_ne (s := s.erase) hs]; rfl

/-- AYW's half of an action, with `Send`. -/
def actBlock (e : Event) (s : State) : State :=
  match e with
  | .setBus _ => advance (s.act e)
  | .setLE _ => advance (s.act e)
  | .send b => { s with txByte := b, txwait := true, trace := s.trace ++ [.send b] }

theorem erase_perform {e : Event} {s t : State} (h : perform e s = .next t) : t.erase = actBlock e s.erase := by
  obtain ⟨b, rfl, rfl⟩ | ⟨he, chip, latch, bus, ctr, rfl⟩ := perform_frame h
  · simp [State.erase, startSend, actBlock]
  · rw [erase_advance]
    cases e with
    | setBus b => rfl
    | setLE l => rfl
    | send b => cases he

theorem erase_waitTransfer (s : State) : (waitTransfer s).erase = (waitTransfer s.erase).erase := by
  have hplan : s.erase.txPlan = s.txPlan := rfl
  unfold waitTransfer
  rw [hplan]
  split <;> simp [State.erase, txDone]

theorem erase_resetBlock (s : State) : (resetBlock s).erase = (resetBlock s.erase).erase := by
  rw [resetBlock_frame s, resetBlock_frame s.erase]
  rfl

/-- A command is accepted alike, for its encoder sees the constants only. -/
theorem erase_exec {i : Instr} {s t s' : State} (h : exec i s = .next s') (hst : s.erase = t.erase) :
    ∃ t', exec i t = .next t' ∧ s'.erase = t'.erase := by
  obtain ⟨chip, latch, bus, shift, ctr, rfl⟩ := ((sameBlock_iff s t).2 hst).exists_eq
  obtain ⟨hready, ⟨ch, he, rfl⟩ | ⟨pl, he, rfl⟩⟩ := exec_next h
  · exact ⟨_, exec_of_divideByZero hready he, rfl⟩
  · exact ⟨_, exec_of_payload hready he, rfl⟩

end Sys2Proof.Machine

namespace Sys2Proof.Proofs

open Sys2Proof Sys2Proof.Machine

/-- Settles O54: the two blocks make the same kind of step, and each kind acts on AYW's half alone. That the second
block's micro-step completes is its own invariant's doing. -/
theorem theChipNeverReachesTheBlock : Obligations.TheChipNeverReachesTheBlock := by
  unfold Obligations.TheChipNeverReachesTheBlock
  intro s t s' hs ht hst hstep
  have herase := (sameBlock_iff s t).1 hst
  simp only [sameBlock_iff]
  obtain ⟨chip, latch, bus, shift, ctr, rfl⟩ := hst.exists_eq
  obtain ⟨hreset, rfl⟩ | ⟨hreset, hfault, hcase⟩ := step_cases hstep
  · exact ⟨_, step_of_reset hreset, by rw [erase_resetBlock, herase, ← erase_resetBlock]⟩
  obtain ⟨hwait, rfl⟩ | ⟨hwait, hready, hcmd, rfl⟩ | ⟨hwait, hready, cw, words, i, hcmd, hi, hexec⟩ |
    ⟨hwait, hready, p, rest, hqueue, hperf⟩ := hcase
  · exact ⟨_, step_of_waiting ⟨hwait, hfault, hreset⟩, by rw [erase_waitTransfer, herase, ← erase_waitTransfer]⟩
  · exact ⟨_, step_of_nothing_presented hreset hfault hwait hready hcmd, herase⟩
  · obtain ⟨t', ht', hs'⟩ := erase_exec hexec (t := { s with
      cmdIn := words, chip := chip, addrLatch := latch, busByte := bus, shiftReg := shift, freeCtr := ctr }) rfl
    exact ⟨t', .trans (step_of_presented hreset hfault hwait hready hcmd hi) ht', hs'⟩
  · obtain ⟨t', ht', hperf'⟩ := (ht.sending hreset hqueue).step_completes hwait
    exact ⟨t', ht', by rw [erase_perform hperf, erase_perform hperf', herase]⟩

end Sys2Proof.Proofs
end

section
/-! SUPPORT. The encoding both ways (30_encoding.md R70 to R75, R79): the three fields of a word, each part of the
decoder against its part of the encoder, and the rows of the opcode table. -/

namespace Sys2Proof

/-! ## The three fields (R70) -/

@[simp] theorem opField_cw37 (op : BitVec 3) (ch : BitVec 2) (arg : BitVec 32) : opField (cw37 op ch arg) = op := by
  rw [opField, cw37, BitVec.extractLsb'_append_eq_of_le (by decide)]
  exact BitVec.extractLsb'_append_eq_left

@[simp] theorem chField_cw37 (op : BitVec 3) (ch : BitVec 2) (arg : BitVec 32) : chField (cw37 op ch arg) = ch := by
  rw [chField, cw37, BitVec.extractLsb'_append_eq_of_le (by decide)]
  exact BitVec.extractLsb'_append_eq_right

@[simp] theorem argField_cw37 (op : BitVec 3) (ch : BitVec 2) (arg : BitVec 32) : argField (cw37 op ch arg) = arg :=
  BitVec.extractLsb'_append_eq_right

/-- A word is its two parts at any boundary. -/
theorem append_extractLsb' {m n : Nat} (x : BitVec (m + n)) : x.extractLsb' n m ++ x.extractLsb' 0 n = x := by
  rw [BitVec.extractLsb'_append_extractLsb'_eq_extractLsb' (by simp), BitVec.extractLsb'_eq_self]

/-- A word is its three fields. -/
theorem cw37_fields (cw : CmdWord) : cw37 (opField cw) (chField cw) (argField cw) = cw := by
  have hhigh : opField cw ++ chField cw = cw.extractLsb' 32 5 :=
    BitVec.extractLsb'_append_extractLsb'_eq_extractLsb' rfl
  rw [cw37, hhigh]
  exact append_extractLsb' (m := 5) (n := 32) cw

/-! ## Decoding what the encoder writes, part by part -/

theorem decodeChannel_code (c : Channel) : decodeChannel c.code = .ok c := by
  cases c <;> rfl

theorem decodeShape_shapeArg (sh : ShapeType) : decodeShape (shapeArg sh) = .ok (Instr.envs sh) := by
  cases sh <;> rfl

theorem decodeMode_ampArg (m : AmpMode) (l : Byte) : decodeMode (ampArg m l) = m := by
  have hbit : (ampArg m l).extractLsb' 8 1 = m.code := by
    rw [ampArg, BitVec.extractLsb'_append_eq_of_le (by decide)]
    exact BitVec.extractLsb'_append_eq_right
  rw [decodeMode, hbit]
  cases m <;> rfl

theorem decodeAmp_ampArg (c : Channel) (m : AmpMode) (l : Byte) :
    decodeAmp c (ampArg m l) = .ok (Instr.amp c m l) := by
  have hhigh : (ampArg m l).extractLsb' 9 23 = 0 := by
    rw [ampArg, BitVec.extractLsb'_append_eq_of_le (by decide)]
    exact BitVec.extractLsb'_append_eq_left
  have hlevel : (ampArg m l).extractLsb' 0 8 = l := BitVec.extractLsb'_append_eq_right
  rw [decodeAmp, if_neg (not_not.2 hhigh), decodeMode_ampArg, hlevel]

theorem decodeMix_mixArg (flags : Byte) : decodeMix (mixArg flags) = .ok (.mix flags) := by
  have hhigh : (mixArg flags).extractLsb' 8 24 = 0 := BitVec.extractLsb'_append_eq_left
  have hlow : (mixArg flags).extractLsb' 0 8 = flags := BitVec.extractLsb'_append_eq_right
  rw [decodeMix, if_neg (not_not.2 hhigh), hlow]

/-! ## Decoding each kind of command word (R71) -/

theorem decode_tone (c : Channel) (arg : BitVec 32) : decode (cw37 0 c.code arg) = .ok (Instr.tone c arg.toNat) := by
  simp [decode, decodeChannel_code, Except.map]

theorem decode_noise (arg : BitVec 32) : decode (cw37 1 0 arg) = .ok (.noise arg.toNat) := by
  simp [decode, noChannel]

theorem decode_envp (fe : BitVec 32) : decode (cw37 2 0 fe) = .ok (.envp fe) := by
  simp [decode, noChannel]

theorem decode_envs (sh : ShapeType) : decode (cw37 3 0 (shapeArg sh)) = .ok (Instr.envs sh) := by
  simp [decode, noChannel, decodeShape_shapeArg]

theorem decode_amp (c : Channel) (m : AmpMode) (l : Byte) :
    decode (cw37 4 c.code (ampArg m l)) = .ok (Instr.amp c m l) := by
  simp [decode, decodeChannel_code, Except.bind, decodeAmp_ampArg]

theorem decode_mix (flags : Byte) : decode (cw37 5 0 (mixArg flags)) = .ok (.mix flags) := by
  simp [decode, noChannel, decodeMix_mixArg]

/-- Decoding gives back every well-formed command. -/
theorem decode_encode {i : Instr} (hi : i.wf) : decode (encode i) = .ok i := by
  have hfreq {f : Nat} (hf : decide (freqOk f) = true) : (BitVec.ofNat 32 f).toNat = f := by
    rw [BitVec.toNat_ofNat, Nat.mod_eq_of_lt (of_decide_eq_true hf)]
  cases i with
  | toneA f => exact (decode_tone .A _).trans (by rw [hfreq hi]; rfl)
  | toneB f => exact (decode_tone .B _).trans (by rw [hfreq hi]; rfl)
  | toneC f => exact (decode_tone .C _).trans (by rw [hfreq hi]; rfl)
  | noise f => exact (decode_noise _).trans (by rw [hfreq hi])
  | envp fe => exact decode_envp fe
  | envsOneShotSaw => exact decode_envs .oneShotSaw
  | envsRampDown => exact decode_envs .rampDown
  | envsRampUp => exact decode_envs .rampUp
  | envsRepeatedSaw => exact decode_envs .repeatedSaw
  | envsRepeatedTriangle => exact decode_envs .repeatedTriangle
  | ampA m l => exact decode_amp .A m l
  | ampB m l => exact decode_amp .B m l
  | ampC m l => exact decode_amp .C m l
  | mix flags => exact decode_mix flags

/-! ## Every word that is not reserved is an encoding (R74) -/

theorem exists_channel_code {ch : BitVec 2} (h : ch ≠ 3) : ∃ c : Channel, ch = c.code := by
  have hall : ∀ ch : BitVec 2, ch = 0 ∨ ch = 1 ∨ ch = 2 ∨ ch = 3 := by decide
  obtain h0 | h1 | h2 | h3 := hall ch
  · exact ⟨.A, h0⟩
  · exact ⟨.B, h1⟩
  · exact ⟨.C, h2⟩
  · exact absurd h3 h

theorem exists_mode_code (b : BitVec 1) : ∃ m : AmpMode, b = m.code := by
  have hall : ∀ b : BitVec 1, b = 0 ∨ b = 1 := by decide
  obtain h0 | h1 := hall b
  · exact ⟨.fixed, h0⟩
  · exact ⟨.variable, h1⟩

theorem exists_shape_code {x : BitVec 3} (h : x.toNat < 5) : ∃ sh : ShapeType, x = sh.code := by
  have hall : ∀ x : BitVec 3, x.toNat < 5 → x = 0 ∨ x = 1 ∨ x = 2 ∨ x = 3 ∨ x = 4 := by decide
  obtain h0 | h1 | h2 | h3 | h4 := hall x h
  · exact ⟨.oneShotSaw, h0⟩
  · exact ⟨.rampDown, h1⟩
  · exact ⟨.rampUp, h2⟩
  · exact ⟨.repeatedSaw, h3⟩
  · exact ⟨.repeatedTriangle, h4⟩

theorem exists_shapeArg {arg : BitVec 32} (hhigh : arg.extractLsb' 3 29 = 0) (hlow : (arg.extractLsb' 0 3).toNat < 5) :
    ∃ sh, arg = shapeArg sh := by
  obtain ⟨sh, hsh⟩ := exists_shape_code hlow
  exact ⟨sh, by rw [shapeArg, ← hhigh, ← hsh]; exact (append_extractLsb' (m := 29) (n := 3) arg).symm⟩

theorem exists_ampArg {arg : BitVec 32} (hhigh : arg.extractLsb' 9 23 = 0) : ∃ m l, arg = ampArg m l := by
  obtain ⟨m, hm⟩ := exists_mode_code (arg.extractLsb' 8 1)
  have hparts : arg.extractLsb' 9 23 ++ arg.extractLsb' 8 1 = arg.extractLsb' 8 24 :=
    BitVec.extractLsb'_append_extractLsb'_eq_extractLsb' rfl
  refine ⟨m, arg.extractLsb' 0 8, ?_⟩
  rw [ampArg, ← hhigh, ← hm, hparts]
  exact (append_extractLsb' (m := 24) (n := 8) arg).symm

theorem exists_mixArg {arg : BitVec 32} (hhigh : arg.extractLsb' 8 24 = 0) : ∃ flags, arg = mixArg flags :=
  ⟨arg.extractLsb' 0 8, by rw [mixArg, ← hhigh]; exact (append_extractLsb' (m := 24) (n := 8) arg).symm⟩

theorem encode_tone (c : Channel) (f : Nat) : encode (Instr.tone c f) = cw37 0 c.code (BitVec.ofNat 32 f) := by
  cases c <;> rfl

theorem encode_envs (sh : ShapeType) : encode (Instr.envs sh) = cw37 3 0 (shapeArg sh) := by
  cases sh <;> rfl

theorem encode_amp (c : Channel) (m : AmpMode) (l : Byte) : encode (Instr.amp c m l) = cw37 4 c.code (ampArg m l) := by
  cases c <;> rfl

theorem wf_tone (c : Channel) (arg : BitVec 32) : (Instr.tone c arg.toNat).wf := by
  cases c <;> exact decide_eq_true arg.isLt

/-- Fields that are not reserved are those of a well-formed command, kind by kind. -/
theorem exists_encode_of_fields {op : BitVec 3} {ch : BitVec 2} {arg : BitVec 32} (h : ¬ reservedFields op ch arg) :
    ∃ i : Instr, i.wf ∧ encode i = cw37 op ch arg := by
  have hop : ∀ op : BitVec 3, op = 0 ∨ op = 1 ∨ op = 2 ∨ op = 3 ∨ op = 4 ∨ op = 5 ∨ op = 6 ∨ op = 7 := by decide
  obtain rfl | rfl | rfl | rfl | rfl | rfl | rfl | rfl := hop op
  · obtain ⟨c, rfl⟩ := exists_channel_code h
    exact ⟨Instr.tone c arg.toNat, wf_tone c arg, by rw [encode_tone, BitVec.ofNat_toNat, BitVec.setWidth_eq]⟩
  · obtain rfl : ch = 0 := not_not.1 h
    exact ⟨.noise arg.toNat, decide_eq_true arg.isLt, by rw [encode, BitVec.ofNat_toNat, BitVec.setWidth_eq]⟩
  · obtain rfl : ch = 0 := not_not.1 h
    exact ⟨.envp arg, rfl, rfl⟩
  · obtain ⟨hch, hhigh, hlow⟩ : ch = 0 ∧ arg.extractLsb' 3 29 = 0 ∧ (arg.extractLsb' 0 3).toNat < 5 := by
      simpa [reservedFields] using h
    obtain ⟨sh, rfl⟩ := exists_shapeArg hhigh hlow
    exact ⟨Instr.envs sh, by cases sh <;> rfl, hch ▸ encode_envs sh⟩
  · obtain ⟨hch, hhigh⟩ : ch ≠ 3 ∧ arg.extractLsb' 9 23 = 0 := by simpa [reservedFields] using h
    obtain ⟨c, rfl⟩ := exists_channel_code hch
    obtain ⟨m, l, rfl⟩ := exists_ampArg hhigh
    exact ⟨Instr.amp c m l, by cases c <;> rfl, encode_amp c m l⟩
  · obtain ⟨hch, hhigh⟩ : ch = 0 ∧ arg.extractLsb' 8 24 = 0 := by simpa [reservedFields] using h
    obtain ⟨flags, rfl⟩ := exists_mixArg hhigh
    exact ⟨.mix flags, rfl, hch ▸ rfl⟩
  · exact absurd trivial h
  · exact absurd trivial h

/-- A word decodes to a command exactly when it is the encoding of that command, which is well formed. -/
theorem decode_eq_ok_iff {cw : CmdWord} {i : Instr} : decode cw = .ok i ↔ i.wf ∧ encode i = cw := by
  constructor
  · intro h
    have hfields : ¬ reservedFields (opField cw) (chField cw) (argField cw) := by
      rw [← exists_error_decode_iff, h]
      rintro ⟨e, he⟩
      cases he
    obtain ⟨j, hj, hcw⟩ := exists_encode_of_fields hfields
    rw [cw37_fields] at hcw
    rw [← hcw, decode_encode hj, Except.ok.injEq] at h
    exact h ▸ ⟨hj, hcw⟩
  · rintro ⟨hi, rfl⟩
    exact decode_encode hi

/-! ## The rows of the opcode table (the note after R75) -/

/-- Every command's word selects its row. -/
theorem encode_selectsRow (i : Instr) : selectsRow (encode i) i.row = true := by
  cases i with
  | toneA f => exact Laws.RowMatch.toneA f
  | toneB f => exact Laws.RowMatch.toneB f
  | toneC f => exact Laws.RowMatch.toneC f
  | noise f => exact Laws.RowMatch.noise f
  | envp fe => exact Laws.RowMatch.envp fe
  | envsOneShotSaw => exact Laws.RowMatch.envsOneShotSaw
  | envsRampDown => exact Laws.RowMatch.envsRampDown
  | envsRampUp => exact Laws.RowMatch.envsRampUp
  | envsRepeatedSaw => exact Laws.RowMatch.envsRepeatedSaw
  | envsRepeatedTriangle => exact Laws.RowMatch.envsRepeatedTriangle
  | ampA m l => exact Laws.RowMatch.ampA m l
  | ampB m l => exact Laws.RowMatch.ampB m l
  | ampC m l => exact Laws.RowMatch.ampC m l
  | mix flags => exact Laws.RowMatch.mix flags

theorem cw37_inj {op op' : BitVec 3} {ch ch' : BitVec 2} {arg arg' : BitVec 32}
    (h : cw37 op ch arg = cw37 op' ch' arg') :
    op = op' ∧ ch = ch' ∧ arg = arg' :=
  ⟨by simpa using congrArg opField h, by simpa using congrArg chField h, by simpa using congrArg argField h⟩

/-- The fields of a word that a row with a mask of all of `op` and `ch` selects. -/
theorem fields_of_masked {cw : CmdWord} {op : BitVec 3} {ch : BitVec 2} {mask arg : BitVec 32}
    (h : cw &&& cw37 7 3 mask = cw37 op ch arg) : opField cw = op ∧ chField cw = ch ∧ argField cw &&& mask = arg := by
  have h7 : ∀ x : BitVec 3, x &&& 7 = x := by decide
  have h3 : ∀ x : BitVec 2, x &&& 3 = x := by decide
  rw [← cw37_fields cw, Laws.RowMatch.cw37_and, h7, h3] at h
  exact cw37_inj h

/-- Where a mask has its top bits set and the masked word is 0, so are the top bits of the word. -/
theorem extractLsb'_eq_zero_of_mask {m n : Nat} {x : BitVec (m + n)}
    (h : x &&& (BitVec.allOnes m ++ (0 : BitVec n)) = 0) :
    x.extractLsb' n m = 0 := by
  rw [← append_extractLsb' x, Laws.RowMatch.and_append, BitVec.and_allOnes] at h
  have htop := congrArg (BitVec.extractLsb' n m) h
  rw [BitVec.extractLsb'_append_eq_left] at htop
  simpa using htop

/-- A row's mask keeps `op` and `ch` and some of `arg`; the word it selects is put together from those fields. -/
theorem eq_cw37_of_selectsRow {cw : CmdWord} {op : BitVec 3} {ch : BitVec 2} {mask arg : BitVec 32}
    (h : selectsRow cw (cw37 op ch arg, cw37 7 3 mask) = true) :
    cw = cw37 op ch (argField cw) ∧ argField cw &&& mask = arg := by
  obtain ⟨hop, hch, harg⟩ := fields_of_masked (beq_iff_eq.1 h)
  refine ⟨?_, harg⟩
  rw [← hop, ← hch, cw37_fields]

theorem decode_of_selectsRow_tone {cw : CmdWord} (c : Channel)
    (h : selectsRow cw (cw37 0 c.code 0, cw37 7 3 0) = true) :
    ∃ f, decode cw = .ok (Instr.tone c f) := by
  rw [(eq_cw37_of_selectsRow h).1]
  exact ⟨_, decode_tone c _⟩

theorem decode_of_selectsRow_amp {cw : CmdWord} (c : Channel)
    (h : selectsRow cw (cw37 4 c.code 0, cw37 7 3 (BitVec.allOnes 23 ++ (0 : BitVec 9))) = true) :
    ∃ m l, decode cw = .ok (Instr.amp c m l) := by
  obtain ⟨hcw, harg⟩ := eq_cw37_of_selectsRow h
  obtain ⟨m, l, hml⟩ := exists_ampArg (extractLsb'_eq_zero_of_mask (m := 23) harg)
  rw [hcw, hml]
  exact ⟨m, l, decode_amp c m l⟩

theorem decode_of_selectsRow_envs {cw : CmdWord} (sh : ShapeType)
    (h : selectsRow cw (cw37 3 0 (shapeArg sh), cw37 7 3 (BitVec.allOnes 32)) = true) :
    decode cw = .ok (Instr.envs sh) := by
  obtain ⟨hcw, harg⟩ := eq_cw37_of_selectsRow h
  rw [hcw, ← BitVec.and_allOnes (x := argField cw), harg]
  exact decode_envs sh

/-- A word that selects the row of a command decodes to a command of that row. -/
theorem decode_of_selectsRow {cw : CmdWord} {i : Instr} (h : selectsRow cw i.row = true) :
    ∃ j, decode cw = .ok j ∧ j.row = i.row := by
  cases i with
  | toneA f =>
    obtain ⟨f, hj⟩ := decode_of_selectsRow_tone .A h
    exact ⟨.toneA f, hj, rfl⟩
  | toneB f =>
    obtain ⟨f, hj⟩ := decode_of_selectsRow_tone .B h
    exact ⟨.toneB f, hj, rfl⟩
  | toneC f =>
    obtain ⟨f, hj⟩ := decode_of_selectsRow_tone .C h
    exact ⟨.toneC f, hj, rfl⟩
  | noise f =>
    have hcw := (eq_cw37_of_selectsRow (op := 1) (ch := 0) (mask := 0) (arg := 0) h).1
    exact ⟨.noise _, (congrArg decode hcw).trans (decode_noise _), rfl⟩
  | envp fe =>
    have hcw := (eq_cw37_of_selectsRow (op := 2) (ch := 0) (mask := 0) (arg := 0) h).1
    exact ⟨.envp _, (congrArg decode hcw).trans (decode_envp _), rfl⟩
  | envsOneShotSaw => exact ⟨_, decode_of_selectsRow_envs .oneShotSaw h, rfl⟩
  | envsRampDown => exact ⟨_, decode_of_selectsRow_envs .rampDown h, rfl⟩
  | envsRampUp => exact ⟨_, decode_of_selectsRow_envs .rampUp h, rfl⟩
  | envsRepeatedSaw => exact ⟨_, decode_of_selectsRow_envs .repeatedSaw h, rfl⟩
  | envsRepeatedTriangle => exact ⟨_, decode_of_selectsRow_envs .repeatedTriangle h, rfl⟩
  | ampA m l =>
    obtain ⟨m, l, hj⟩ := decode_of_selectsRow_amp .A h
    exact ⟨.ampA m l, hj, rfl⟩
  | ampB m l =>
    obtain ⟨m, l, hj⟩ := decode_of_selectsRow_amp .B h
    exact ⟨.ampB m l, hj, rfl⟩
  | ampC m l =>
    obtain ⟨m, l, hj⟩ := decode_of_selectsRow_amp .C h
    exact ⟨.ampC m l, hj, rfl⟩
  | mix flags =>
    obtain ⟨hcw, harg⟩ := eq_cw37_of_selectsRow (op := 5) (ch := 0) (arg := 0)
      (mask := BitVec.allOnes 24 ++ (0 : BitVec 8)) h
    obtain ⟨flags, hflags⟩ := exists_mixArg (extractLsb'_eq_zero_of_mask (m := 24) harg)
    rw [hflags] at hcw
    exact ⟨.mix flags, (congrArg decode hcw).trans (decode_mix flags), rfl⟩

/-- The table lists rows of commands only. -/
theorem exists_row_of_mem {row : CmdWord × CmdWord} (h : row ∈ opcodeTable) : ∃ i : Instr, row = i.row := by
  simp only [opcodeTable, List.mem_cons, List.not_mem_nil, or_false] at h
  rcases h with h | h | h | h | h | h | h | h | h | h | h | h | h | h <;> exact ⟨_, h⟩

/-- It lists each command's row once. -/
theorem filter_eq_row (j : Instr) : opcodeTable.filter (· == j.row) = [j.row] := by
  cases j <;> rfl

end Sys2Proof

namespace Sys2Proof.Proofs

open Sys2Proof Sys2Proof.Machine

/-- Settles O7: kind by kind, the decoder reads back the fields that the encoder writes. -/
theorem decodeOfEncode : Obligations.DecodeOfEncode := by
  unfold Obligations.DecodeOfEncode
  intro i hi
  exact decode_encode hi

/-- Settles O8: a word that decodes has no reserved fields, so it is some command's encoding, and by O7 that command is
the one it decodes to. -/
theorem encodeOfDecode : Obligations.EncodeOfDecode := by
  unfold Obligations.EncodeOfDecode
  intro cw i h
  exact decode_eq_ok_iff.1 h

/-- Settles O10: a word selects the row of the command it decodes to, and a word that selects a row decodes to a command
of that row. -/
theorem oneTableRowPerCommand : Obligations.OneTableRowPerCommand := by
  unfold Obligations.OneTableRowPerCommand
  constructor
  · intro cw j hj
    rw [← filter_eq_row j]
    refine List.filter_congr fun row hrow => ?_
    rw [Bool.eq_iff_iff, beq_iff_eq]
    constructor
    · intro hsel
      obtain ⟨i, rfl⟩ := exists_row_of_mem hrow
      obtain ⟨k, hk, hki⟩ := decode_of_selectsRow hsel
      rw [hj, Except.ok.injEq] at hk
      rw [← hki, hk]
    · rintro rfl
      exact (decode_eq_ok_iff.1 hj).2 ▸ encode_selectsRow j
  · intro cw e he
    refine List.filter_eq_nil_iff.2 fun row hrow hsel => ?_
    obtain ⟨i, rfl⟩ := exists_row_of_mem hrow
    obtain ⟨k, hk, -⟩ := decode_of_selectsRow hsel
    rw [he] at hk
    cases hk

/-- Settles O11: seven closed words. -/
theorem sampleWordsDecode : Obligations.SampleWordsDecode := by
  unfold Obligations.SampleWordsDecode
  decide

end Sys2Proof.Proofs
end

section
/-! SUPPORT. The wait for the transfer primitive (42_bus_sequencer.md R148, 60_exceptions.md R198). -/

namespace Sys2Proof.Machine

theorem waitTransfer_of_some_succ {s : State} {n : Nat} {plan : List (Option Nat)}
    (h : s.txPlan = some (n + 1) :: plan) :
    waitTransfer s = { s with
      busByte := s.floatBus.busByte, freeCtr := s.floatBus.freeCtr, txPlan := some n :: plan } := by
  rw [waitTransfer, h, s.floatBus_frame]

theorem waitTransfer_of_none {s : State} {plan : List (Option Nat)} (h : s.txPlan = none :: plan) :
    waitTransfer s = { s with busByte := s.floatBus.busByte, freeCtr := s.floatBus.freeCtr } := by
  have hw : waitTransfer s = s.floatBus := by rw [waitTransfer, h]
  exact hw.trans s.floatBus_frame

theorem waitTransfer_of_some_zero {s : State} {plan : List (Option Nat)} (h : s.txPlan = some 0 :: plan) :
    waitTransfer s = txDone s := by
  rw [waitTransfer, h]

theorem waitTransfer_of_nil {s : State} (h : s.txPlan = []) : waitTransfer s = txDone s := by
  rw [waitTransfer, h]

/-- An answer that is `n` steps away comes: the waiting steps before it change only the bus, the counter and the
plan. -/
theorem runFor_wait {s : State} {plan : List (Option Nat)} (n : Nat) (h : Waiting s)
    (hplan : s.txPlan = some n :: plan) :
    ∃ bus ctr, runFor (n + 1) s =
      .next (txDone { s with busByte := bus, freeCtr := ctr, txPlan := some 0 :: plan }) := by
  induction n generalizing s with
  | zero =>
    refine ⟨s.busByte, s.freeCtr, ?_⟩
    rw [runFor_succ 0 (step_of_waiting h), waitTransfer_of_some_zero hplan, runFor_zero, ← hplan]
  | succ n ih =>
    have hstep := step_of_waiting h
    rw [waitTransfer_of_some_succ hplan] at hstep
    rw [runFor_succ (n + 1) hstep]
    exact ih ⟨h.wait, h.noFault, h.noReset⟩ rfl

end Sys2Proof.Machine

namespace Sys2Proof.Proofs

open Sys2Proof Sys2Proof.Machine

/-- Settles O45: the waiting steps come down to the answer, and the answer is `txDone`. -/
theorem txDoneEndsTheWait : Obligations.TxDoneEndsTheWait := by
  unfold Obligations.TxDoneEndsTheWait
  intro s n plan h hplan
  obtain ⟨bus, ctr, hrun⟩ := runFor_wait n h hplan
  refine ⟨_, hrun, rfl, rfl, rfl, rfl, ?_⟩
  simp [txDone, State.lines]

/-- Settles O46: by induction on the number of steps; each is a waiting step with no answer in sight. -/
theorem stalledTransferHangs : Obligations.StalledTransferHangs := by
  unfold Obligations.StalledTransferHangs
  intro s plan k h hplan
  induction k generalizing s with
  | zero => exact ⟨s, rfl, rfl⟩
  | succ k ih =>
    have hstep := step_of_waiting h
    rw [waitTransfer_of_none hplan] at hstep
    rw [runFor_succ k hstep]
    exact ih _ ⟨h.wait, h.noFault, h.noReset⟩ hplan

end Sys2Proof.Proofs
end

section
/-! SUPPORT. Runs of the sequencer (42_bus_sequencer.md R143 to R154, 43_facade.md R173 to R177): a row of the table
with the wait it may have, a transaction, a payload, a command, a sequence of commands. -/

namespace Sys2Proof.Machine

/-! ## Stretches of a run -/

/-- `n` steps lead from `s` to `t` and record the events `es`; the commands, the constants and the way the environment
answers stay. -/
structure Reaches (n : Nat) (s t : State) (es : List Event) : Prop where
  run : runFor n s = .next t
  trace : t.trace = s.trace ++ es
  cmdIn : t.cmdIn = s.cmdIn
  cfg : t.cfg = s.cfg
  fair : s.fair → t.fair
  prompt : s.prompt → t.prompt

/-- Prompt answers are answers sooner or later. -/
theorem State.fair_of_prompt {s : State} (h : s.prompt) : s.fair := by
  rw [State.fair, h]
  exact List.not_mem_nil

theorem Reaches.refl (s : State) : Reaches 0 s s [] := ⟨rfl, by simp, rfl, rfl, id, id⟩

theorem Reaches.trans {m n : Nat} {s t u : State} {es fs : List Event} (h : Reaches m s t es) (k : Reaches n t u fs) :
    Reaches (m + n) s u (es ++ fs) where
  run := (runFor_add h.run).trans k.run
  trace := by rw [k.trace, h.trace, List.append_assoc]
  cmdIn := k.cmdIn.trans h.cmdIn
  cfg := k.cfg.trans h.cfg
  fair := k.fair ∘ h.fair
  prompt := k.prompt ∘ h.prompt

/-- One micro-step. -/
theorem Reaches.of_perform {e : Event} {s t : State} (hstep : step s = .next t) (ht : perform e s = .next t) :
    Reaches 1 s t [e] where
  run := runFor_succ 0 hstep
  trace := perform_trace ht
  cmdIn := (perform_keeps ht).cmdIn
  cfg := (perform_keeps ht).cfg
  fair hs := by rw [State.fair, (perform_keeps ht).txPlan]; exact hs
  prompt hs := (perform_keeps ht).txPlan.trans hs

section
variable {p : Packet} {rest : List Packet} {s t : State}

/-- The wait inside a transaction ends, at the next step if the environment answers promptly (R148). -/
theorem Sending.wait_ends (h : Sending p rest s) (hwait : s.txwait = true) (hfair : s.fair) :
    ∃ n t, Reaches n s t [] ∧ Sending p rest t ∧ t.txwait = false ∧ t.seq = s.seq + 1 ∧ t.chip = s.chip ∧
      (s.prompt → n = 1) := by
  have hw := h.waiting hwait
  cases hplan : s.txPlan with
  | nil =>
    have hstep := step_of_waiting hw
    rw [waitTransfer_of_nil hplan] at hstep
    have hnone : (txDone s).txPlan = [] := by simp [txDone, hplan]
    refine ⟨1, txDone s, ⟨runFor_succ 0 hstep, ?_, s.floatBus_cmdIn, s.floatBus_cfg, ?_, fun _ => hnone⟩,
      h.after_txDone hwait, rfl, rfl, s.floatBus_chip, fun _ => rfl⟩
    · simp [txDone]
    · simp [State.fair, hnone]
  | cons answer plan =>
    cases answer with
    | none => simp [State.fair, hplan] at hfair
    | some n =>
      obtain ⟨bus, ctr, hrun⟩ := runFor_wait n hw hplan
      refine ⟨n + 1, _, ⟨hrun, ?_, ?_, ?_, ?_, ?_⟩, (h.after_waiting hwait bus ctr _).after_txDone hwait, rfl, rfl,
        State.floatBus_chip _, ?_⟩
      · simp [txDone]
      · simp [txDone]
      · simp [txDone]
      · simp [txDone, State.fair, hplan]
      · simp [hplan]
      · simp [hplan]

/-! ## One row with its wait -/

/-- How many steps a row takes when every `Send` is answered at the next step. -/
def rowSteps (k : Fin 12) : Nat := if k = 3 ∨ k = 8 then 2 else 1

/-- From one row to the next, under the fairness assumption. -/
theorem Sending.row_ends (h : Sending p rest s) (hwait : s.txwait = false) (hfair : s.fair) (hlast : s.seq ≠ 11) :
    ∃ n t, Reaches n s t [microAction p s.seq] ∧ Sending p rest t ∧ t.txwait = false ∧ t.seq = s.seq + 1 ∧
      t.chip = (if s.seq = 10 then s.chip.write p.addr.toNat p.val else s.chip) ∧
      (s.prompt → n = rowSteps s.seq) := by
  obtain ⟨t, hstep, ht⟩ := h.step_completes hwait
  have hreach := Reaches.of_perform hstep ht
  have hnext := h.after_perform hwait hlast ht
  have hchip : t.chip = if s.seq = 10 then s.chip.write p.addr.toNat p.val else s.chip := by
    have hest := h.established
    simp only [perform_chip ht, microAction_eq_writeData]
    split
    case isTrue h10 => rw [h10] at hest; rw [hest.1, hest.2]
    case isFalse => rfl
  have hsend := microAction_isSend p s.seq
  have hseq := perform_seq ht
  have htxwait := perform_txwait ht
  rw [hwait, hsend, Bool.false_or] at htxwait
  rw [hsend] at hseq
  by_cases h38 : s.seq = 3 ∨ s.seq = 8
  · rw [decide_eq_true h38] at htxwait hseq
    obtain ⟨n, u, hreach', hnext', hwait', hseq', hchip', hprompt⟩ := hnext.wait_ends htxwait (hreach.fair hfair)
    refine ⟨1 + n, u, hreach.trans hreach', hnext', hwait', ?_, hchip'.trans hchip, fun hp => ?_⟩
    · rw [hseq', hseq, if_pos rfl]
    · rw [hprompt (hreach.prompt hp), rowSteps, if_pos h38]
  · rw [decide_eq_false h38] at htxwait hseq
    exact ⟨1, t, hreach, hnext, htxwait, hseq, hchip, fun _ => (if_neg h38).symm⟩

/-! ## One transaction -/

/-- The actions of the rows from `u<k>` on. -/
def actionsFrom (p : Packet) (k : Nat) : List Event := ((List.finRange 12).drop k).map (microAction p)

/-- The steps those rows take when every `Send` is answered at the next step. -/
def stepsFrom (k : Nat) : Nat := (((List.finRange 12).drop k).map rowSteps).sum

theorem actionsFrom_zero (p : Packet) : actionsFrom p (0 : Fin 12).val = transactionTrace p := rfl

theorem stepsFrom_zero : stepsFrom (0 : Fin 12).val = 14 := rfl

theorem actionsFrom_eq_cons (p : Packet) (k : Fin 12) :
    actionsFrom p k.val = microAction p k :: actionsFrom p (k.val + 1) := by
  fin_cases k <;> rfl

theorem stepsFrom_eq_add (k : Fin 12) : stepsFrom k.val = rowSteps k + stepsFrom (k.val + 1) := by
  revert k; decide

theorem Sending.last_row_ends (h : Sending p rest s) (hwait : s.txwait = false) (hlast : s.seq = 11) :
    ∃ t, Reaches 1 s t [microAction p s.seq] ∧ Done p rest t ∧ t.chip = s.chip := by
  obtain ⟨t, hstep, ht⟩ := h.step_completes hwait
  refine ⟨t, .of_perform hstep ht, h.after_last hwait hlast ht, (perform_chip ht).trans (if_neg ?_)⟩
  rw [microAction_eq_writeData, hlast]
  decide

/-- From any row on, a transaction ends, under the fairness assumption: by induction on the number of rows left. -/
theorem Sending.ends (h : Sending p rest s) (hwait : s.txwait = false) (hfair : s.fair) :
    ∃ n t, Reaches n s t (actionsFrom p s.seq.val) ∧ Done p rest t ∧
      t.chip = (if s.seq.val ≤ 10 then s.chip.write p.addr.toNat p.val else s.chip) ∧
      (s.prompt → n = stepsFrom s.seq.val) := by
  obtain ⟨j, hj⟩ : ∃ j, s.seq.val + j = 11 := ⟨11 - s.seq.val, by omega⟩
  induction j generalizing s with
  | zero =>
    have hlast : s.seq = 11 := Fin.ext hj
    obtain ⟨t, hreach, hdone, hchip⟩ := h.last_row_ends hwait hlast
    rw [hlast] at hreach ⊢
    exact ⟨1, t, hreach, hdone, hchip, fun _ => rfl⟩
  | succ j ih =>
    have hlast : s.seq ≠ 11 := fun h11 => by simp [h11] at hj
    obtain ⟨m, t, hrow, ht, htwait, htseq, htchip, hm⟩ := h.row_ends hwait hfair hlast
    have hval : t.seq.val = s.seq.val + 1 := by
      rw [htseq]
      exact Fin.val_add_one_of_lt (Fin.lt_last_iff_ne_last.2 hlast)
    obtain ⟨n, u, hreach, hdone, hchip, hn⟩ := ih ht htwait (hrow.fair hfair) (by omega)
    refine ⟨m + n, u, ?_, hdone, ?_, fun hp => ?_⟩
    · rw [actionsFrom_eq_cons, ← hval]
      exact hrow.trans hreach
    · have hle : s.seq.val ≤ 10 := by omega
      rw [hchip, htchip, hval, if_pos hle]
      by_cases h10 : s.seq = 10
      · rw [if_pos h10, if_neg (by simp [h10])]
      · have hne : s.seq.val ≠ 10 := fun hv => h10 (Fin.ext hv)
        rw [if_neg h10, if_pos (by omega)]
    · rw [hm hp, hn (hrow.prompt hp), hval, stepsFrom_eq_add]

/-- A whole transaction, from any levels of the lines (R143, R145, R154). -/
theorem Busy.transaction_ends (h : Busy p rest s) (hseq : s.seq = 0) (hcell : p.addr.toNat < chipCells)
    (hfair : s.fair) :
    ∃ n t, Reaches n s t (transactionTrace p) ∧ Done p rest t ∧ t.chip = s.chip.write p.addr.toNat p.val ∧
      (s.prompt → n = 14) := by
  obtain ⟨n, t, hreach, hdone, hchip, hn⟩ := (h.sending hseq hcell).ends h.noWait hfair
  rw [hseq, actionsFrom_zero] at hreach
  rw [hseq] at hchip
  rw [hseq, stepsFrom_zero] at hn
  exact ⟨n, t, hreach, hdone, hchip, hn⟩

end

/-! ## A payload, a command -/

theorem writeAll_append (m : Memory) (ps qs : List Packet) : writeAll m (ps ++ qs) = writeAll (writeAll m ps) qs :=
  List.foldl_append

/-- The transactions of some packets, one after the other: the bus and the chip's latch are left by the last. -/
theorem Loaded.ends {ps : List Packet} {s : State} (h : Loaded ps s) (hcells : ∀ p ∈ ps, p.addr.toNat < chipCells)
    (hfair : s.fair) :
    ∃ n t, Reaches n s t (ps.flatMap transactionTrace) ∧ Loaded [] t ∧ t.chip = writeAll s.chip ps ∧
      t.busByte = (ps.getLast?.map Packet.val).getD s.busByte ∧
      t.addrLatch = (ps.getLast?.map Packet.addr).getD s.addrLatch ∧ (s.prompt → n = 14 * ps.length) := by
  induction ps generalizing s with
  | nil => exact ⟨0, s, .refl s, h, rfl, rfl, rfl, fun _ => rfl⟩
  | cons p ps ih =>
    obtain ⟨hp, hps⟩ := List.forall_mem_cons.1 hcells
    obtain ⟨m, t, hfirst, ⟨hloaded, hbus, hlatch⟩, hchip, hm⟩ := h.busy.transaction_ends h.atStart hp hfair
    obtain ⟨n, u, hrest, hquiet, hchip', hbus', hlatch', hn⟩ := ih hloaded hps (hfirst.fair hfair)
    refine ⟨m + n, u, hfirst.trans hrest, hquiet, ?_, ?_, ?_, fun hprompt => ?_⟩
    · rw [hchip', hchip]; rfl
    · rw [hbus', hbus, List.getLast?_cons, Option.map_some, Option.getD_some, Option.getD_map]
    · rw [hlatch', hlatch, List.getLast?_cons, Option.map_some, Option.getD_some, Option.getD_map]
    · rw [hm hprompt, hn (hfirst.prompt hprompt), List.length_cons]
      omega

/-- A quiet block accepts the command presented, and its packets are loaded (R174). -/
theorem Quiet.accepts {s : State} {w : CmdWord} {words : List CmdWord} {i : Instr} {pl : WritePayload} (h : Quiet s)
    (hcmd : s.cmdIn = w :: words) (hi : decode w = .ok i) (hpl : encodeCommand s.cfg i = .payload pl) :
    ∃ t, step s = .next t ∧ Loaded pl.packets t ∧ t.cmdIn = words ∧ t.trace = s.trace ∧ t.chip = s.chip ∧
      t.cfg = s.cfg ∧ t.txPlan = s.txPlan := by
  have hexec := exec_of_payload (s := { s with cmdIn := words }) h.ready hpl
  refine ⟨_, (step_of_presented h.noReset h.noFault h.noWait h.ready hcmd hi).trans hexec,
    ⟨rfl, ?_, h.noFault, h.noWait, h.noReset, rfl, h.idle⟩, rfl, rfl, rfl, rfl, rfl⟩
  cases pl <;> rfl

/-- A command presented to a quiet block completes (R173, R177). -/
theorem Quiet.command_ends {s : State} {w : CmdWord} {words : List CmdWord} {i : Instr} {pl : WritePayload}
    (h : Quiet s) (hprompt : s.prompt) (hcfg : s.cfg.wf) (hcmd : s.cmdIn = w :: words) (hi : decode w = .ok i)
    (hpl : encodeCommand s.cfg i = .payload pl) :
    ∃ t, runFor (1 + 14 * pl.packets.length) s = .next t ∧ Quiet t ∧
      t.trace = s.trace ++ pl.packets.flatMap transactionTrace ∧ t.chip = writeAll s.chip pl.packets ∧
      (∀ p, pl.packets.getLast? = some p → t.busByte = p.val ∧ t.addrLatch = p.addr) ∧
      t.cmdIn = words ∧ t.cfg = s.cfg ∧ t.prompt := by
  obtain ⟨t, hstep, hloaded, hwords, htrace, hchip, hcfg', hplan⟩ := h.accepts hcmd hi hpl
  have htprompt : t.prompt := hplan.trans hprompt
  obtain ⟨n, u, hreach, hquiet, hchip', hbus, hlatch, hn⟩ :=
    hloaded.ends (encodeCommand_cells hcfg.2 hpl) (State.fair_of_prompt htprompt)
  rw [hn htprompt] at hreach
  refine ⟨u, ?_, hquiet.quiet, ?_, ?_, fun p hp => ?_, hreach.cmdIn.trans hwords, hreach.cfg.trans hcfg',
    hreach.prompt htprompt⟩
  · rw [Nat.add_comm, runFor_succ _ hstep, hreach.run]
  · rw [hreach.trace, htrace]
  · rw [hchip', hchip]
  · rw [hbus, hlatch, hp]
    exact ⟨rfl, rfl⟩

/-- Between the two transactions of a command with two packets the chip has the first byte and not yet the second
(R57). -/
theorem Quiet.two_packets_mixed {s : State} {w : CmdWord} {words : List CmdWord} {i : Instr} {r r' : RegName}
    {v v' : Byte} (h : Quiet s) (hprompt : s.prompt) (hcfg : s.cfg.wf) (hcmd : s.cmdIn = w :: words)
    (hi : decode w = .ok i)
    (hpl : encodeCommand s.cfg i = .payload (.double (packetFor s.cfg r v) (packetFor s.cfg r' v')))
    (hne : r ≠ r') :
    ∃ t u, runFor 15 s = .next t ∧ runFor 14 t = .next u ∧ t.reg r = some v ∧ t.reg r' = s.reg r' ∧ t.ready = false ∧
      u.reg r = some v ∧ u.reg r' = some v' ∧ u.ready = true := by
  obtain ⟨t₀, hstep, hloaded, -, -, hchip₀, hcfg₀, hplan⟩ := h.accepts hcmd hi hpl
  have hprompt₀ : t₀.prompt := hplan.trans hprompt
  obtain ⟨m, t, hfirst, ⟨ht, -, -⟩, hchip, hm⟩ :=
    hloaded.busy.transaction_ends hloaded.atStart (hcfg.2.get_lt r) (State.fair_of_prompt hprompt₀)
  have htprompt := hfirst.prompt hprompt₀
  obtain ⟨n, u, hsecond, ⟨hu, -, -⟩, hchip', hn⟩ :=
    ht.busy.transaction_ends ht.atStart (hcfg.2.get_lt r') (State.fair_of_prompt htprompt)
  rw [hm hprompt₀] at hfirst
  rw [hn htprompt] at hsecond
  have hcells : (s.cfg.regAddr.get r').toNat ≠ (s.cfg.regAddr.get r).toNat := fun heq =>
    hne (hcfg.2.get_injective (BitVec.eq_of_toNat_eq heq)).symm
  have htcfg : t.cfg = s.cfg := hfirst.cfg.trans hcfg₀
  have hucfg : u.cfg = s.cfg := hsecond.cfg.trans htcfg
  have hreg (x : State) (hx : x.cfg = s.cfg) (q : RegName) : x.reg q = x.chip.read (s.cfg.regAddr.get q).toNat := by
    rw [State.reg, hx]
  refine ⟨t, u, (runFor_succ 14 hstep).trans hfirst.run, hsecond.run, ?_, ?_, ht.ready, ?_, ?_, hu.ready⟩
  · rw [hreg t htcfg, hchip]
    exact Memory.read_write_same ..
  · rw [hreg t htcfg, hreg s rfl, hchip, hchip₀]
    exact Memory.read_write_other _ _ _ _ hcells
  · rw [hreg u hucfg, hchip', hchip]
    exact (Memory.read_write_other _ _ _ _ hcells.symm).trans (Memory.read_write_same ..)
  · rw [hreg u hucfg, hchip']
    exact Memory.read_write_same ..

end Sys2Proof.Machine

namespace Sys2Proof.Proofs

open Sys2Proof Sys2Proof.Machine

/-- Settles O47: a transaction with prompt answers takes 14 steps, and the chip has one write more. -/
theorem transactionWritesOneRegister : Obligations.TransactionWritesOneRegister := by
  unfold Obligations.TransactionWritesOneRegister
  intro s p rest hbusy hseq hprompt hcell
  obtain ⟨n, t, hreach, ⟨ht, hbus, hlatch⟩, hchip, hn⟩ :=
    hbusy.transaction_ends hseq hcell (State.fair_of_prompt hprompt)
  rw [hn hprompt] at hreach
  refine ⟨t, hreach.run, hreach.trace, fun a => ?_, ht.queue, ht.atStart, ?_, ht.idle, hbus, hlatch, hreach.cmdIn,
    hreach.cfg⟩
  · rw [hchip]
    exact Memory.read_write ..
  · rw [ht.ready, List.isEmpty_iff]

/-- Settles O48: the same transaction, in as many steps as the answers take. -/
theorem fairTransactionsEnd : Obligations.FairTransactionsEnd := by
  unfold Obligations.FairTransactionsEnd
  intro s p rest hbusy hseq hfair hcell
  obtain ⟨n, t, hreach, ⟨ht, -, -⟩, hchip, -⟩ := hbusy.transaction_ends hseq hcell hfair
  refine ⟨n, t, hreach.run, hreach.trace, fun a => ?_, ht.queue, ht.atStart, ?_, hreach.fair hfair, hreach.cmdIn,
    hreach.cfg⟩
  · rw [hchip]
    exact Memory.read_write ..
  · rw [ht.ready, List.isEmpty_iff]

/-- Settles O49: the wait in progress ends, then the transaction in progress, then those of the packets behind it. -/
theorem fairCommandsComplete : Obligations.FairCommandsComplete := by
  unfold Obligations.FairCommandsComplete
  intro s h hreset hfault hfair
  cases hqueue : s.queue with
  | nil => exact ⟨0, s, rfl, h.readyIff.2 ⟨hqueue, hfault⟩, hqueue, (h.between hqueue).2.2, rfl⟩
  | cons p rest =>
    have hs := h.sending hreset hqueue
    obtain ⟨k, t, hwaited, ht, htwait⟩ : ∃ k t, Reaches k s t [] ∧ Sending p rest t ∧ t.txwait = false := by
      cases hwait : s.txwait with
      | false => exact ⟨0, s, .refl s, hs, hwait⟩
      | true =>
        obtain ⟨k, t, hreach, ht, htwait, -⟩ := hs.wait_ends hwait hfair
        exact ⟨k, t, hreach, ht, htwait⟩
    obtain ⟨m, u, hfirst, ⟨hu, -, -⟩, -⟩ := ht.ends htwait (hwaited.fair hfair)
    have hcells : ∀ q ∈ rest, q.addr.toNat < chipCells := fun q hq =>
      h.queueRange q (hqueue ▸ List.mem_cons_of_mem _ hq)
    obtain ⟨n, v, hrest, hv, -⟩ := hu.ends hcells (hfirst.fair (hwaited.fair hfair))
    have hall := (hwaited.trans hfirst).trans hrest
    exact ⟨_, v, hall.run, hv.ready, hv.queue, hv.noWait, hall.cmdIn⟩

/-- Settles O50: the word presented decodes to the command, and that command completes. -/
theorem commandRunsToCompletion : Obligations.CommandRunsToCompletion := by
  unfold Obligations.CommandRunsToCompletion
  intro s i rest pl h hprompt hcfg hi hcmd hpl
  obtain ⟨t, hrun, hquiet, htrace, hchip, hlast, hrest, hcfg', -⟩ :=
    h.command_ends hprompt hcfg hcmd (decode_encode hi) hpl
  exact ⟨t, hrun, hquiet, htrace, hchip, hlast, hrest, hcfg'⟩

/-- Settles O51: by induction on the list, one command's completion after the other. -/
theorem commandsRunBackToBack : Obligations.CommandsRunBackToBack := by
  unfold Obligations.CommandsRunBackToBack
  intro is
  induction is with
  | nil =>
    intro s h _ _ hcmd _
    exact ⟨0, s, rfl, ⟨h, hcmd⟩, by simp, rfl⟩
  | cons i is ih =>
    intro s h hprompt hcfg hcmd his
    obtain ⟨⟨hi, pl, hpl⟩, his⟩ := List.forall_mem_cons.1 his
    obtain ⟨t, hrun, hquiet, htrace, hchip, -, hrest, hcfg', htprompt⟩ :=
      h.command_ends hprompt hcfg hcmd (decode_encode hi) hpl
    obtain ⟨k, u, hrun', hended, htrace', hchip'⟩ :=
      ih t hquiet htprompt (hcfg' ▸ hcfg) hrest fun j hj => hcfg' ▸ his j hj
    have hpackets : commandPackets s.cfg i = pl.packets := by rw [commandPackets, hpl]
    refine ⟨_, u, (runFor_add hrun).trans hrun', hended, ?_, ?_⟩
    · rw [htrace', htrace, hcfg', List.flatMap_cons, commandTrace, hpackets, List.append_assoc]
    · rw [hchip', hchip, hcfg', List.flatMap_cons, hpackets, writeAll_append]

/-- Settles O52: TONE's payload is two packets, for the fine and the coarse register. -/
theorem toneHasAMixedIntermediateState : Obligations.ToneHasAMixedIntermediateState := by
  unfold Obligations.ToneHasAMixedIntermediateState
  intro s ch freq rest h hprompt hcfg hpos hfreq hcmd
  have hwf : (Instr.tone ch freq).wf := by cases ch <;> exact decide_eq_true hfreq
  exact h.two_packets_mixed hprompt hcfg hcmd (decode_encode hwf) (encodeCommand_tone_of_pos s.cfg ch hpos) (by simp)

/-- Settles O53: ENVP's payload is two packets, for the coarse and the fine register, of whichever divider. -/
theorem envpHasAMixedIntermediateState : Obligations.EnvpHasAMixedIntermediateState := by
  unfold Obligations.EnvpHasAMixedIntermediateState
  intro s fe d rest h hprompt hcfg hd hcmd
  have hpl : encodeCommand s.cfg (.envp fe) = .payload (envPayload s.cfg d) := by
    obtain ⟨hpos, hdiv⟩ | ⟨hzero, rfl⟩ := hd
    · exact encodeCommand_envp_of_some s.cfg hpos hdiv
    · exact encodeCommand_envp_of_zeroPattern s.cfg hzero
  exact h.two_packets_mixed hprompt hcfg hcmd (decode_encode rfl) hpl (by simp)

end Sys2Proof.Proofs
end

section
/-! SUPPORT. The envelope divider (40_encoders_period.md R104): the value of a binary32 operand, rounding in a
floating-point format, and the three evaluations against the exact quotient. -/

namespace Sys2Proof.Machine

/-! ## The operand's value (R73) -/

/-- A power of two as a fraction of two natural ones. -/
theorem two_zpow_eq_div (z : ℤ) : (2 : ℚ) ^ z = 2 ^ z.toNat / 2 ^ (-z).toNat := by
  obtain hz | hz := le_total 0 z
  · lift z to ℕ using hz
    simp
  · obtain ⟨m, rfl⟩ := Int.exists_eq_neg_ofNat hz
    simp

theorem f32Significand_pos {fe : BitVec 32} (h : positiveFinite fe) : 0 < f32Significand fe := by
  unfold f32Significand
  split
  case isTrue hexp =>
    refine Nat.pos_of_ne_zero fun hfrac => h.2.2 ?_
    have hparts : fe.extractLsb' 23 8 ++ fe.extractLsb' 0 23 = fe.extractLsb' 0 31 :=
      BitVec.extractLsb'_append_extractLsb'_eq_extractLsb' rfl
    have hexp0 : fe.extractLsb' 23 8 = 0 := BitVec.eq_of_toNat_eq hexp
    have hfrac0 : fe.extractLsb' 0 23 = 0 := BitVec.eq_of_toNat_eq hfrac
    rw [hexp0, hfrac0] at hparts
    exact hparts.symm
  case isFalse => positivity

theorem f32Significand_lt (fe : BitVec 32) : f32Significand fe < 2 ^ 24 := by
  have hfrac : f32Frac fe < 2 ^ 23 := (fe.extractLsb' 0 23).isLt
  unfold f32Significand
  split <;> omega

theorem f32Num_pos {fe : BitVec 32} (h : positiveFinite fe) : 0 < f32Num fe :=
  Nat.mul_pos (f32Significand_pos h) (by positivity)

theorem f32Den_pos (fe : BitVec 32) : 0 < f32Den fe := Nat.two_pow_pos _

theorem f32Den_le (fe : BitVec 32) : f32Den fe ≤ 2 ^ 149 := by
  have hscale : 1 ≤ f32Scale fe := le_max_right _ _
  exact Nat.pow_le_pow_right (by decide) (by omega)

/-- The standard's formula is significand times a power of two. -/
theorem f32Value_eq (fe : BitVec 32) : f32Value fe = f32Significand fe * 2 ^ ((f32Scale fe : ℤ) - 150) := by
  by_cases hexp : f32Exp fe = 0
  · simp [f32Value, f32Significand, f32Scale, hexp]
  · have hscale : f32Scale fe = f32Exp fe := max_eq_left (Nat.one_le_iff_ne_zero.2 hexp)
    have hsplit : (2 : ℚ) ^ ((f32Exp fe : ℤ) - 127) = 2 ^ ((f32Exp fe : ℤ) - 150) * 2 ^ 23 := by
      rw [← zpow_natCast, ← zpow_add₀ two_ne_zero]
      congr 1
      ring
    rw [f32Value, f32Significand, if_neg hexp, if_neg hexp, hscale, hsplit]
    push_cast
    ring

/-- It is the model's fraction. -/
theorem f32Value_eq_div (fe : BitVec 32) : f32Value fe = f32Num fe / f32Den fe := by
  have hup : ((f32Scale fe : ℤ) - 150).toNat = f32Scale fe - 150 := by omega
  have hdown : (-((f32Scale fe : ℤ) - 150)).toNat = 150 - f32Scale fe := by omega
  rw [f32Value_eq, two_zpow_eq_div, hup, hdown, f32Num, f32Den]
  push_cast
  ring

theorem envQuotient_eq_div (clk : Nat) (fe : BitVec 32) :
    envQuotient clk fe = ((clk * f32Den fe : ℕ) : ℚ) / ((256 * f32Num fe : ℕ) : ℚ) := by
  rw [envQuotient, f32Value_eq_div]
  push_cast
  rw [← mul_div_assoc, div_div_eq_mul_div]

/-- The exact evaluation is the floor of the exact quotient (R104). -/
theorem floor_envQuotient (clk : Nat) (fe : BitVec 32) : ⌊envQuotient clk fe⌋₊ = envDivExact clk fe := by
  rw [envQuotient_eq_div, Nat.floor_div_eq_div]
  rfl

/-! ## Rounding (R104) -/

/-- The binary logarithm of a positive fraction is no more than it says. -/
theorem two_zpow_ratLog2_le {n d : Nat} (hn : 0 < n) (hd : 0 < d) : (2 : ℚ) ^ ratLog2 n d ≤ n / d := by
  have hd' : (0 : ℚ) < d := Nat.cast_pos.2 hd
  unfold ratLog2
  simp only
  split
  case isTrue h =>
    rw [two_zpow_eq_div, div_le_div_iff₀ (by positivity) hd', mul_comm]
    exact_mod_cast h
  case isFalse =>
    have hsplit : (n.log2 : ℤ) - d.log2 - 1 = (n.log2 : ℤ) - ((d.log2 + 1 : ℕ) : ℤ) := by push_cast; ring
    rw [hsplit, zpow_sub₀ two_ne_zero, zpow_natCast, zpow_natCast]
    have hnum : ((2 ^ n.log2 : ℕ) : ℚ) ≤ n := Nat.cast_le.2 (Nat.log2_self_le hn.ne')
    have hden : (d : ℚ) ≤ ((2 ^ (d.log2 + 1) : ℕ) : ℚ) := Nat.cast_le.2 Nat.lt_log2_self.le
    push_cast at hnum hden
    exact div_le_div₀ (Nat.cast_nonneg n) hnum hd' hden

theorem ratLog2_lt {n d : Nat} {j : ℤ} (hn : 0 < n) (hd : 0 < d) (h : (n : ℚ) / d < 2 ^ j) : ratLog2 n d < j :=
  (zpow_lt_zpow_iff_right₀ one_lt_two).1 ((two_zpow_ratLog2_le hn hd).trans_lt h)

/-- Rounding an integer keeps it. -/
theorem roundHalfEven_of_dvd {n d : Nat} (hd : 0 < d) (h : d ∣ n) : roundHalfEven n d = n / d := by
  simp [roundHalfEven, Nat.mod_eq_zero_of_dvd h, hd]

/-- Rounding goes to one of the two nearest integers. -/
theorem roundHalfEven_bounds (n d : Nat) : n / d ≤ roundHalfEven n d ∧ roundHalfEven n d ≤ n / d + 1 := by
  unfold roundHalfEven
  simp only
  split
  · omega
  · split <;> omega

/-- So it does not cross an integer. -/
theorem roundHalfEven_le {n d b : Nat} (hd : 0 < d) (h : n ≤ b * d) : roundHalfEven n d ≤ b := by
  obtain rfl | hlt := h.eq_or_lt
  · rw [roundHalfEven_of_dvd hd (Nat.dvd_mul_left ..), Nat.mul_div_cancel _ hd]
  · have hdiv : n / d < b := (Nat.div_lt_iff_lt_mul hd).2 hlt
    exact (roundHalfEven_bounds n d).2.trans hdiv

section
variable (f : FloatFormat) {n d : Nat}

theorem FloatFormat.round_den_pos : 0 < (f.round n d).2 := Nat.two_pow_pos _

/-- A fraction whose last place is a whole multiple of the format's is kept as it is. -/
theorem FloatFormat.round_exact (hd : 0 < d)
    (h : d * 2 ^ (f.quantum n d).toNat ∣ n * 2 ^ (-f.quantum n d).toNat) :
    (f.round n d).1 * d = n * (f.round n d).2 := by
  have hpos : 0 < d * 2 ^ (f.quantum n d).toNat := by positivity
  show roundHalfEven _ _ * 2 ^ (f.quantum n d).toNat * d = n * 2 ^ (-f.quantum n d).toNat
  rw [roundHalfEven_of_dvd hpos h, mul_assoc, mul_comm (2 ^ _) d, Nat.div_mul_cancel h]

/-- The last place of a fraction below `2 ^ (prec + j)` is at most `2 ^ j`. -/
theorem FloatFormat.quantum_le {j : ℤ} (hn : 0 < n) (hd : 0 < d) (hmin : f.qmin ≤ j)
    (h : (n : ℚ) / d < 2 ^ (f.prec + j)) : f.quantum n d ≤ j := by
  have := ratLog2_lt hn hd h
  exact max_le (by omega) hmin

/-- The same with natural bounds, for zero as well. -/
theorem FloatFormat.quantum_le_natCast {j : Nat} (hd : 0 < d) (hmin : f.qmin ≤ 0) (h : n < 2 ^ (f.prec + j) * d) :
    f.quantum n d ≤ j := by
  obtain rfl | hn := Nat.eq_zero_or_pos n
  · have hlog : ratLog2 0 d < 0 := by
      simp only [ratLog2, Nat.log2_zero, zero_mul]
      rw [if_neg (Nat.not_le.2 (by positivity))]
      omega
    exact max_le (by omega) (by omega)
  · refine f.quantum_le hn hd (by omega) ((div_lt_iff₀ (Nat.cast_pos.2 hd)).2 ?_)
    exact_mod_cast h

/-- Where the last place is 1 or less, rounding does not cross an integer: the integer part is kept or goes up by
one, and an integer is kept. -/
theorem FloatFormat.round_div (hd : 0 < d) (hk : f.quantum n d ≤ 0) :
    ((f.round n d).1 / (f.round n d).2 = n / d ∨ (f.round n d).1 / (f.round n d).2 = n / d + 1) ∧
    (d ∣ n → (f.round n d).1 / (f.round n d).2 = n / d) := by
  have hzero : (f.quantum n d).toNat = 0 := Int.toNat_of_nonpos hk
  have hround : f.round n d = (roundHalfEven (n * 2 ^ (-f.quantum n d).toNat) d, 2 ^ (-f.quantum n d).toNat) := by
    simp only [FloatFormat.round, hzero, pow_zero, mul_one]
  rw [hround]
  generalize hK : 2 ^ (-f.quantum n d).toNat = K
  have hKpos : 0 < K := hK ▸ Nat.two_pow_pos _
  have hlow : n / d * K ≤ roundHalfEven (n * K) d :=
    le_trans ((Nat.le_div_iff_mul_le hd).2 (by
      rw [mul_right_comm]
      exact Nat.mul_le_mul_right K (Nat.div_mul_le_self n d))) (roundHalfEven_bounds _ _).1
  have hhigh : roundHalfEven (n * K) d ≤ (n / d + 1) * K := roundHalfEven_le hd (by
    rw [mul_right_comm, mul_comm (n / d + 1)]
    exact Nat.mul_le_mul_right K (Nat.lt_mul_div_succ n hd).le)
  refine ⟨?_, fun hdvd => ?_⟩
  · have hge : n / d ≤ roundHalfEven (n * K) d / K := (Nat.le_div_iff_mul_le hKpos).2 hlow
    have hle : roundHalfEven (n * K) d / K ≤ n / d + 1 := Nat.div_le_of_le_mul (by rwa [mul_comm K])
    exact Nat.le_and_le_add_one_iff.1 ⟨hge, hle⟩
  · rw [roundHalfEven_of_dvd hd (hdvd.mul_right K), ← Nat.div_mul_right_comm hdvd]
    exact Nat.mul_div_cancel _ hKpos

/-- However coarse the last place, rounding adds at most one of it. -/
theorem FloatFormat.round_div_le (hd : 0 < d) :
    (f.round n d).1 / (f.round n d).2 ≤ n / d + 2 ^ (f.quantum n d).toNat := by
  show roundHalfEven (n * 2 ^ (-f.quantum n d).toNat) (d * 2 ^ (f.quantum n d).toNat) * 2 ^ (f.quantum n d).toNat /
    2 ^ (-f.quantum n d).toNat ≤ _
  generalize hY : 2 ^ (f.quantum n d).toNat = Y
  generalize hX : 2 ^ (-f.quantum n d).toNat = X
  have hXpos : 0 < X := hX ▸ Nat.two_pow_pos _
  have hnear := (roundHalfEven_bounds (n * X) (d * Y)).2
  have hdown : n * X / (d * Y) * Y < (n / d + 1) * X := by
    refine Nat.lt_of_mul_lt_mul_left (a := d) ?_
    calc d * (n * X / (d * Y) * Y) = n * X / (d * Y) * (d * Y) := by ring
      _ ≤ n * X := Nat.div_mul_le_self ..
      _ < d * (n / d + 1) * X := Nat.mul_lt_mul_of_pos_right (Nat.lt_mul_div_succ n hd) hXpos
      _ = d * ((n / d + 1) * X) := by ring
  refine Nat.lt_succ_iff.1 ((Nat.div_lt_iff_lt_mul hXpos).2 ?_)
  calc roundHalfEven (n * X) (d * Y) * Y ≤ (n * X / (d * Y) + 1) * Y := Nat.mul_le_mul_right Y hnear
    _ = n * X / (d * Y) * Y + Y := by ring
    _ < (n / d + 1) * X + Y * X := Nat.add_lt_add_of_lt_of_le hdown (Nat.le_mul_of_pos_right Y hXpos)
    _ = (n / d + Y + 1) * X := by ring

/-- A multiple of a power of two is kept where the format has as many digits and as fine a last place. -/
theorem FloatFormat.round_scaled {sig a b : Nat} (hsig : sig < 2 ^ f.prec) (hmin : f.qmin ≤ (a : ℤ) - b) :
    (f.round (sig * 2 ^ a) (2 ^ b)).1 * 2 ^ b = sig * 2 ^ a * (f.round (sig * 2 ^ a) (2 ^ b)).2 := by
  refine f.round_exact (Nat.two_pow_pos b) ?_
  obtain rfl | hpos := Nat.eq_zero_or_pos sig
  · simp
  · have hlt : ((sig * 2 ^ a : ℕ) : ℚ) / ((2 ^ b : ℕ) : ℚ) < 2 ^ (f.prec + ((a : ℤ) - b)) := by
      rw [zpow_add₀ two_ne_zero, zpow_sub₀ two_ne_zero, zpow_natCast, zpow_natCast, zpow_natCast, ← mul_div_assoc]
      push_cast
      gcongr
      exact_mod_cast hsig
    have hk := f.quantum_le (by positivity) (Nat.two_pow_pos b) hmin hlt
    rw [← pow_add, mul_assoc, ← pow_add]
    exact (pow_dvd_pow 2 (by omega)).mul_left sig

end

/-! ## The two floating-point evaluations (R104) -/

/-- The format has the digits and the exponents of binary32 at least. -/
structure FloatFormat.Covers32 (f : FloatFormat) : Prop where
  prec : 24 ≤ f.prec
  qmin : f.qmin ≤ -149
  overflowExp : 25 ≤ f.overflowExp

theorem binary32_covers32 : binary32.Covers32 := ⟨by decide, by decide, by decide⟩
theorem binary64_covers32 : binary64.Covers32 := ⟨by decide, by decide, by decide⟩

section
variable {f : FloatFormat} {clk : Nat} {fe : BitVec 32}

/-- The operand times 256 is exact in such a format. -/
theorem FloatFormat.Covers32.round_operand (hf : f.Covers32) (fe : BitVec 32) :
    (f.round (256 * f32Num fe) (f32Den fe)).1 * f32Den fe =
      256 * f32Num fe * (f.round (256 * f32Num fe) (f32Den fe)).2 := by
  have hscale : 1 ≤ f32Scale fe := le_max_right _ _
  have hnum : 256 * f32Num fe = f32Significand fe * 2 ^ (8 + (f32Scale fe - 150)) := by
    rw [f32Num, pow_add]
    ring
  have hsig : f32Significand fe < 2 ^ f.prec :=
    (f32Significand_lt fe).trans_le (Nat.pow_le_pow_right (by decide) hf.prec)
  have hmin := hf.qmin
  rw [hnum]
  exact f.round_scaled hsig (by omega)

/-- So is a clock of no more digits. -/
theorem FloatFormat.Covers32.round_clock (hf : f.Covers32) (hclk : clk < 2 ^ f.prec) :
    (f.round clk 1).1 = clk * (f.round clk 1).2 := by
  have hmin := hf.qmin
  simpa using f.round_scaled (a := 0) (b := 0) hclk (by simpa using by omega)

/-- Equal fractions have the same integer part, and are integers alike. -/
theorem div_eq_div_of_cross {n d n' d' : Nat} (hd : 0 < d) (hd' : 0 < d') (h : n * d' = n' * d) :
    n / d = n' / d' ∧ (d ∣ n → d' ∣ n') := by
  refine ⟨?_, fun hdvd => ?_⟩
  · rw [← Nat.mul_div_mul_right n d hd', h, mul_comm d, Nat.mul_div_mul_right n' d' hd]
  · have := Nat.mul_dvd_mul_right hdvd d'
    rw [h, mul_comm d] at this
    exact Nat.dvd_of_mul_dvd_mul_right hd this

/-- A rounded value overflows when its integer part has the overflow's digits. -/
theorem FloatFormat.overflows_eq_true_iff {x : Nat × Nat} (hf : f.Covers32) :
    f.overflows x = true ↔ 2 ^ f.overflowExp ≤ x.1 / x.2 := by
  have hexp := hf.overflowExp
  rw [FloatFormat.overflows, decide_eq_true_iff]
  by_cases hzero : x.1 / x.2 = 0
  · rw [hzero, Nat.log2_zero]
    simp
    omega
  · exact Nat.le_log2 hzero

/-- Clock and operand are exact, so the one operation that rounds is the division: what is rounded there is the exact
quotient. -/
theorem FloatFormat.Covers32.quotient (hf : f.Covers32) (hclk : clk < 2 ^ f.prec) (hpos : positiveFinite fe)
    {c p : Nat × Nat} (hc : c = f.round clk 1) (hp : p = f.round (256 * f32Num fe) (f32Den fe)) :
    0 < c.2 * p.1 ∧ c.1 * p.2 * (256 * f32Num fe) = clk * f32Den fe * (c.2 * p.1) := by
  have hcexact := hf.round_clock hclk
  have hpexact := hf.round_operand fe
  rw [← hc] at hcexact
  rw [← hp] at hpexact
  have hc2 : 0 < c.2 := hc ▸ f.round_den_pos
  have hp2 : 0 < p.2 := hp ▸ f.round_den_pos
  have hp1 : 0 < p.1 := by
    refine Nat.pos_of_ne_zero fun h0 => ?_
    rw [h0, zero_mul] at hpexact
    exact (Nat.mul_pos (Nat.mul_pos (by decide) (f32Num_pos hpos)) hp2).ne hpexact
  refine ⟨Nat.mul_pos hc2 hp1, ?_⟩
  calc c.1 * p.2 * (256 * f32Num fe) = c.1 * (256 * f32Num fe * p.2) := by ring
    _ = clk * c.2 * (p.1 * f32Den fe) := by rw [hcexact, hpexact]
    _ = clk * f32Den fe * (c.2 * p.1) := by ring

/-- An operand whose product overflows is so large that the exact quotient is below 1. -/
theorem FloatFormat.Covers32.floor_of_overflow (hf : f.Covers32) (hclk : clk < 2 ^ 24)
    (hover : f.overflows (f.round (256 * f32Num fe) (f32Den fe)) = true) : envDivExact clk fe = 0 := by
  have hexact := hf.round_operand fe
  have hp2 : 0 < (f.round (256 * f32Num fe) (f32Den fe)).2 := f.round_den_pos
  generalize f.round (256 * f32Num fe) (f32Den fe) = p at hexact hp2 hover
  have hlarge : 2 ^ 24 * p.2 ≤ p.1 := by
    have hover := (FloatFormat.overflows_eq_true_iff hf).1 hover
    have hpow : 2 ^ 24 ≤ 2 ^ f.overflowExp := Nat.pow_le_pow_right (by decide) (by have := hf.overflowExp; omega)
    exact (Nat.le_div_iff_mul_le hp2).1 (hpow.trans hover)
  refine Nat.div_eq_of_lt (Nat.lt_of_mul_lt_mul_right (a := p.2) ?_)
  calc clk * f32Den fe * p.2 < 2 ^ 24 * f32Den fe * p.2 :=
        Nat.mul_lt_mul_of_pos_right (Nat.mul_lt_mul_of_pos_right hclk (f32Den_pos fe)) hp2
    _ = 2 ^ 24 * p.2 * f32Den fe := by ring
    _ ≤ p.1 * f32Den fe := Nat.mul_le_mul_right _ hlarge
    _ = 256 * f32Num fe * p.2 := hexact

/-- Below `2 ^ 24` a floating-point evaluation is the floor of the exact quotient or one more, and the quotient itself
where that is an integer (R104). -/
theorem envDivFloat_within (hf : f.Covers32) (hclk : clk < 2 ^ 24) (hpos : positiveFinite fe)
    (hq : envDivExact clk fe < 2 ^ 24) :
    ∃ d, envDivFloat f clk fe = some d ∧ (d = envDivExact clk fe ∨ d = envDivExact clk fe + 1) ∧
      (256 * f32Num fe ∣ clk * f32Den fe → d = envDivExact clk fe) := by
  have hpow : 2 ^ 24 ≤ 2 ^ f.prec := Nat.pow_le_pow_right (by decide) hf.prec
  have hoperand := hf.floor_of_overflow (fe := fe) hclk
  have hquotient := hf.quotient (hclk.trans_le hpow) hpos rfl rfl
  simp only [envDivFloat]
  generalize f.round clk 1 = c at hquotient ⊢
  generalize f.round (256 * f32Num fe) (f32Den fe) = p at hquotient hoperand ⊢
  obtain ⟨hd, hcross⟩ := hquotient
  cases hover : f.overflows p with
  | true =>
    have hzero := hoperand hover
    exact ⟨0, rfl, .inl hzero.symm, fun _ => hzero.symm⟩
  | false =>
    have hnum : 0 < 256 * f32Num fe := Nat.mul_pos (by decide) (f32Num_pos hpos)
    obtain ⟨hdiv, hdvd⟩ := div_eq_div_of_cross hnum hd hcross.symm
    have hbound : c.1 * p.2 < 2 ^ (f.prec + 0) * (c.2 * p.1) :=
      (Nat.div_lt_iff_lt_mul hd).1 ((hdiv.symm.trans_lt hq).trans_le hpow)
    have hk := f.quantum_le_natCast hd (by have := hf.qmin; omega) hbound
    obtain ⟨hwithin, hexact⟩ := f.round_div hd hk
    rw [← hdiv] at hwithin hexact
    have hfits : f.overflows (f.round (c.1 * p.2) (c.2 * p.1)) = false := by
      have hexp : 2 ^ 25 ≤ 2 ^ f.overflowExp := Nat.pow_le_pow_right (by decide) hf.overflowExp
      rw [Bool.eq_false_iff, ne_eq, FloatFormat.overflows_eq_true_iff hf]
      unfold envDivExact at hq
      omega
    refine ⟨_, by rw [if_neg (by decide), hfits]; rfl, hwithin, fun h => hexact (hdvd h)⟩

/-- In a format with a large enough range the quotient of a 32-bit clock never overflows (R104). -/
theorem envDivFloat_ne_none (hf : f.Covers32) (hprec : 32 ≤ f.prec) (hexp : 174 ≤ f.overflowExp) (hclk : clk < 2 ^ 32)
    (hpos : positiveFinite fe) : envDivFloat f clk fe ≠ none := by
  have hpow : 2 ^ 32 ≤ 2 ^ f.prec := Nat.pow_le_pow_right (by decide) hprec
  have hquotient := hf.quotient (hclk.trans_le hpow) hpos rfl rfl
  simp only [envDivFloat]
  generalize f.round clk 1 = c at hquotient ⊢
  generalize f.round (256 * f32Num fe) (f32Den fe) = p at hquotient ⊢
  obtain ⟨hd, hcross⟩ := hquotient
  have hsmall : c.1 * p.2 < 2 ^ 173 * (c.2 * p.1) := by
    refine Nat.lt_of_mul_lt_mul_right (a := 256) ?_
    calc c.1 * p.2 * 256 ≤ c.1 * p.2 * (256 * f32Num fe) :=
          Nat.mul_le_mul_left _ (Nat.le_mul_of_pos_right 256 (f32Num_pos hpos))
      _ = clk * f32Den fe * (c.2 * p.1) := hcross
      _ < 2 ^ 32 * 2 ^ 149 * (c.2 * p.1) := Nat.mul_lt_mul_of_pos_right
          (Nat.mul_lt_mul_of_lt_of_le hclk (f32Den_le fe) (by positivity)) hd
      _ = 2 ^ 173 * (c.2 * p.1) * 256 := by ring
  have hfits : f.overflows (f.round (c.1 * p.2) (c.2 * p.1)) = false := by
    have hk : f.quantum (c.1 * p.2) (c.2 * p.1) ≤ (173 : Nat) := by
      refine f.quantum_le_natCast hd (by have := hf.qmin; omega) (hsmall.trans_le (Nat.mul_le_mul_right _ ?_))
      exact Nat.pow_le_pow_right (by decide) (by omega)
    have hround := f.round_div_le (n := c.1 * p.2) hd
    have hplace : 2 ^ (f.quantum (c.1 * p.2) (c.2 * p.1)).toNat ≤ 2 ^ 173 :=
      Nat.pow_le_pow_right (by decide) (by omega)
    have hdiv : c.1 * p.2 / (c.2 * p.1) < 2 ^ 173 := (Nat.div_lt_iff_lt_mul hd).2 hsmall
    have hrange : 2 ^ 174 ≤ 2 ^ f.overflowExp := Nat.pow_le_pow_right (by decide) hexp
    rw [Bool.eq_false_iff, ne_eq, FloatFormat.overflows_eq_true_iff hf]
    omega
  rw [hfits]
  split <;> exact Option.some_ne_none _

end

end Sys2Proof.Machine

namespace Sys2Proof.Proofs

open Sys2Proof Sys2Proof.Machine

/-- Settles O16: under `exact` the divider is the floor of the exact quotient, and the packets are its two bytes. -/
theorem envpLoadsCoarseThenFine : Obligations.EnvpLoadsCoarseThenFine := by
  unfold Obligations.EnvpLoadsCoarseThenFine
  intro fe s hready harith hpos
  rw [floor_envQuotient]
  exact exec_of_payload hready (encodeCommand_envp_of_some s.cfg hpos (by rw [harith]; rfl))

/-- Settles O20: the exact evaluation is the floor; the other two round the exact quotient once, where no integer is
crossed. -/
theorem dividersAgreeWithinOne : Obligations.DividersAgreeWithinOne := by
  unfold Obligations.DividersAgreeWithinOne
  intro a clk fe _ hclk hpos hq
  have hfloor : envDivExact clk fe < 2 ^ 24 := by
    rw [← floor_envQuotient]
    exact Nat.floor_lt' (by decide) |>.2 (by exact_mod_cast hq)
  have hint : (⌊envQuotient clk fe⌋₊ : ℚ) = envQuotient clk fe → 256 * f32Num fe ∣ clk * f32Den fe := by
    have hnum : ((256 * f32Num fe : ℕ) : ℚ) ≠ 0 := Nat.cast_ne_zero.2 (Nat.mul_pos (by decide) (f32Num_pos hpos)).ne'
    rw [envQuotient_eq_div, eq_div_iff hnum]
    exact fun h => Dvd.intro_left _ (Nat.cast_injective (R := ℚ) (by rw [Nat.cast_mul, h]))
  rw [floor_envQuotient] at hint ⊢
  cases a with
  | exact => exact ⟨_, rfl, .inl rfl, fun _ => rfl⟩
  | ieee32 =>
    obtain ⟨d, hd, hwithin, hexact⟩ := envDivFloat_within binary32_covers32 hclk hpos hfloor
    exact ⟨d, hd, hwithin, hexact ∘ hint⟩
  | ieee64 =>
    obtain ⟨d, hd, hwithin, hexact⟩ := envDivFloat_within binary64_covers32 hclk hpos hfloor
    exact ⟨d, hd, hwithin, hexact ∘ hint⟩

/-- Settles O21: `exact` always answers, and binary64 has the range for every quotient of a 32-bit clock. -/
theorem onlyBinary32LeavesNoDivider : Obligations.OnlyBinary32LeavesNoDivider := by
  unfold Obligations.OnlyBinary32LeavesNoDivider
  intro a clk fe hclk hpos hnone
  cases a with
  | exact => cases hnone
  | ieee32 => rfl
  | ieee64 => exact absurd hnone (envDivFloat_ne_none binary64_covers32 (by decide) (by decide) hclk hpos)

end Sys2Proof.Proofs
end
